-- ==== Sys2Proof/Word.lean ====
section
/-! DEFINITION. The words of the block: the command word, the response word and the value.
`spec/30_encoding.md` rules R80 and R90, `spec/00_scope.md` rules R10 and R12. -/

namespace Sys2Proof

/-- A command word, 80 bits (rule R80). -/
abbrev CmdWord := BitVec 80

/-- A response word, 68 bits (rule R90). -/
abbrev RspWord := BitVec 68

/-- The value field, the accumulator and the response data, 64 bits (rules R10, R30, R90). -/
abbrev Value := BitVec 64

end Sys2Proof
end

