-- ==== Sys2Proof/Config.lean ====
section
/-! DEFINITION. What the spec leaves open: free values, which have no body, so that nothing can be proved about
which value they are. -/

namespace Sys2Proof.Config

/-- The answer of the peripheral to the `k`-th `LineRead(din)` for which no answer is listed in the state
(`20_memory.md` rule R55: "an oracle that may answer either value at every read"). Log entry 5. -/
opaque dinSample : Nat → Bool

/-- What a command that leaves `VAL` unused loads into it (`42_clock.md` rule R156: "unused"). Log entry 8. -/
opaque unusedVal : Nat → Value

/-- `DWELL_UNIT`, the duration of the source's "1 time unit" (`00_scope.md` rule R11). Log entry 18. -/
opaque dwellUnit : Nat

/-- `DWELL`, which is `1 × DWELL_UNIT` (`00_scope.md` rule R11). -/
def dwell : Nat := 1 * dwellUnit

end Sys2Proof.Config
end

