-- ==== Sys2Proof/Syntax.lean ====
section
/-! DEFINITION. The twelve commands of the block as syntax, one constructor per row of the opcode table
(`30_encoding.md` rule R83), and the ways a word can name no command. -/

namespace Sys2Proof

/-- The two bit orders fixed at construction. The names are labels: what they mean is the index formula of
`20_memory.md` rule R60, not what they say (rule R61). -/
inductive BitOrder where
  | mostSignificantFirst
  | leastSignificantFirst
  deriving DecidableEq, Repr

/-- A command with its operands (rules R83, R85). A count is a natural number; that it fits its eight bits is
`Instr.WellFormed`. -/
inductive Instr where
  /-- OPEN, rule R112 -/
  | openConn (order : BitOrder) (hasDout hasDin : Bool)
  /-- CLOSE, rule R118 -/
  | closeConn
  /-- SELECT, rule R132 -/
  | select
  /-- RELEASE, rule R136 -/
  | release
  /-- SYNC, rule R153 -/
  | sync
  /-- WRBIT, rule R172 -/
  | wrbit (b : Bool)
  /-- RDBIT, rule R202 -/
  | rdbit
  /-- RDN, rule R207 -/
  | rdn (n : Nat)
  /-- WR8, rule R183 -/
  | wr8 (v : BitVec 8) (n : Nat)
  /-- WR16, rule R184 -/
  | wr16 (v : BitVec 16) (n : Nat)
  /-- WR32, rule R185 -/
  | wr32 (v : BitVec 32) (n : Nat)
  /-- WR64, rule R186 -/
  | wr64 (v : BitVec 64) (n : Nat)
  deriving DecidableEq, Repr

/-- Why a word names no command. -/
inductive Reject where
  /-- The op code is 0xC, 0xD, 0xE or 0xF (`30_encoding.md` rule R86). -/
  | reservedOp (op : BitVec 4)
  deriving DecidableEq, Repr

end Sys2Proof
end

