-- ==== Sys2Proof/WellFormed.lean ====
section
/-! DEFINITION. When a command as syntax has a command word: its bit count fits the eight-bit field `n`
(`30_encoding.md` rule R85, `93_implementation_defined.md` U17). The values need no check: their types are as wide as
their entry points. -/

namespace Sys2Proof

/-- A bit count that the field `n` can hold: 0 to 255 (rule R85). -/
def countFits (n : Nat) : Bool := decide (n < 256)

/-- The command has a word. -/
def Instr.WellFormed : Instr → Bool
  | .openConn _ _ _ => true
  | .closeConn => true
  | .select => true
  | .release => true
  | .sync => true
  | .wrbit _ => true
  | .rdbit => true
  | .rdn n => countFits n
  | .wr8 _ n => countFits n
  | .wr16 _ n => countFits n
  | .wr32 _ n => countFits n
  | .wr64 _ n => countFits n

end Sys2Proof
end

