-- ==== Sys2Proof/Decode.lean ====
section
/-! DEFINITION. Decoding a command word, the encoder written from the same table, and the opcode table itself.
`30_encoding.md` rules R80, R83, R85, R86, R87. -/

namespace Sys2Proof

/-! ### The fields of the command word, rule R80 -/

/-- `op`, bits 3:0. -/
def opField (w : CmdWord) : BitVec 4 := w.extractLsb' 0 4

/-- `order`, bit 4, with the codes of `10_state.md` rule R23. -/
def orderField (w : CmdWord) : BitOrder :=
  if w.getLsbD 4 then .leastSignificantFirst else .mostSignificantFirst

/-- `has_dout`, bit 5. -/
def hasDoutField (w : CmdWord) : Bool := w.getLsbD 5

/-- `has_din`, bit 6. -/
def hasDinField (w : CmdWord) : Bool := w.getLsbD 6

/-- `n`, bits 15:8, an unsigned number (rule R85). -/
def countField (w : CmdWord) : Nat := (w.extractLsb' 8 8).toNat

/-- `value[W-1:0]`, bits 16+W-1 down to 16; the bits above are ignored (rule R85). -/
def valueField (width : Nat) (w : CmdWord) : BitVec width := w.extractLsb' 16 width

/-- `value[0]`, bit 16, the operand of WRBIT (rule R85). -/
def bitField (w : CmdWord) : Bool := w.getLsbD 16

/-! ### The decoder -/

/-- The command a word names, or why it names none. Total on every word: fields a command does not use and bit 7
are ignored (rule R87); the op codes 0xC to 0xF are rejected by name (rule R86). -/
def decode (w : CmdWord) : Except Reject Instr :=
  match (opField w).toNat with
  | 0x0 => .ok (.openConn (orderField w) (hasDoutField w) (hasDinField w))
  | 0x1 => .ok .closeConn
  | 0x2 => .ok .select
  | 0x3 => .ok .release
  | 0x4 => .ok .sync
  | 0x5 => .ok (.wrbit (bitField w))
  | 0x6 => .ok .rdbit
  | 0x7 => .ok (.rdn (countField w))
  | 0x8 => .ok (.wr8 (valueField 8 w) (countField w))
  | 0x9 => .ok (.wr16 (valueField 16 w) (countField w))
  | 0xA => .ok (.wr32 (valueField 32 w) (countField w))
  | 0xB => .ok (.wr64 (valueField 64 w) (countField w))
  | _ => .error (.reservedOp (opField w))

/-- The command read from a word given as the opcode table numbers its bits. There is one instruction length, 80
bits, and one word on one port, so no byte order enters (rules R62, R80). Log entry 21. -/
def decodeTableWord (nbits w : Nat) : Option Instr :=
  let bits := w % 2 ^ nbits
  if bits < 2 ^ 80 then
    match decode (BitVec.ofNat 80 bits) with
    | .ok i => some i
    | .error _ => none
  else none

/-! ### The encoder -/

/-- The op code of a command, rule R83. -/
def Instr.op : Instr → BitVec 4
  | .openConn _ _ _ => 0x0
  | .closeConn => 0x1
  | .select => 0x2
  | .release => 0x3
  | .sync => 0x4
  | .wrbit _ => 0x5
  | .rdbit => 0x6
  | .rdn _ => 0x7
  | .wr8 _ _ => 0x8
  | .wr16 _ _ => 0x9
  | .wr32 _ _ => 0xA
  | .wr64 _ _ => 0xB

/-- The code of a bit order, `10_state.md` rule R23. -/
def BitOrder.code : BitOrder → Bool
  | .mostSignificantFirst => false
  | .leastSignificantFirst => true

/-- A command word put together from its fields; bit 7 is zero (rule R80). -/
def packWord (op : BitVec 4) (order hasDout hasDin : Bool) (n : BitVec 8) (value : Value) : CmdWord :=
  value ++ n ++ 0#1 ++ BitVec.ofBool hasDin ++ BitVec.ofBool hasDout ++ BitVec.ofBool order ++ op

/-- The word of a command, fields not used being zero (rules R80, R83, R85, R95). Of a count that does not fit, it
takes the low eight bits; `encode` refuses such a command. -/
def encodeWord (i : Instr) : CmdWord :=
  match i with
  | .openConn order hasDout hasDin => packWord i.op order.code hasDout hasDin 0 0
  | .closeConn => packWord i.op false false false 0 0
  | .select => packWord i.op false false false 0 0
  | .release => packWord i.op false false false 0 0
  | .sync => packWord i.op false false false 0 0
  | .wrbit b => packWord i.op false false false 0 ((BitVec.ofBool b).setWidth 64)
  | .rdbit => packWord i.op false false false 0 0
  | .rdn n => packWord i.op false false false (BitVec.ofNat 8 n) 0
  | .wr8 v n => packWord i.op false false false (BitVec.ofNat 8 n) (v.setWidth 64)
  | .wr16 v n => packWord i.op false false false (BitVec.ofNat 8 n) (v.setWidth 64)
  | .wr32 v n => packWord i.op false false false (BitVec.ofNat 8 n) (v.setWidth 64)
  | .wr64 v n => packWord i.op false false false (BitVec.ofNat 8 n) v

/-- The word of a well-formed command; a command whose count does not fit has none
(`93_implementation_defined.md` U17). -/
def encode (i : Instr) : Option CmdWord := if i.WellFormed then some (encodeWord i) else none

/-- The bits of the command word that a command uses: `op` and the fields of rule R83's column "fields used". -/
def usedBits : Instr → CmdWord
  | .openConn _ _ _ => 0x0000000000000000007F
  | .closeConn => 0x0000000000000000000F
  | .select => 0x0000000000000000000F
  | .release => 0x0000000000000000000F
  | .sync => 0x0000000000000000000F
  | .wrbit _ => 0x0000000000000001000F
  | .rdbit => 0x0000000000000000000F
  | .rdn _ => 0x0000000000000000FF0F
  | .wr8 _ _ => 0x000000000000_00FF_FF0F
  | .wr16 _ _ => 0x000000000000_FFFF_FF0F
  | .wr32 _ _ => 0x00000000_FFFFFFFF_FF0F
  | .wr64 _ _ => 0xFFFFFFFFFFFFFFFF_FF0F

/-! ### The opcode table -/

/-- One row of `opcode_table.json`: a word is the row's when its bits under `mask` are `pattern`. -/
structure OpcodeRow where
  mnemonic : String
  mask     : CmdWord
  pattern  : CmdWord
  deriving DecidableEq, Repr

/-- Does the row match the word? -/
def OpcodeRow.covers (r : OpcodeRow) (w : CmdWord) : Bool := w &&& r.mask == r.pattern

/-- The twelve rows (rule R83: `mask = 0x0000000000000000000F` and `match = op` for every row). -/
def opcodeTable : List OpcodeRow :=
  [⟨"OPEN", 0xF, 0x0⟩, ⟨"CLOSE", 0xF, 0x1⟩, ⟨"SELECT", 0xF, 0x2⟩, ⟨"RELEASE", 0xF, 0x3⟩,
   ⟨"SYNC", 0xF, 0x4⟩, ⟨"WRBIT", 0xF, 0x5⟩, ⟨"RDBIT", 0xF, 0x6⟩, ⟨"RDN", 0xF, 0x7⟩,
   ⟨"WR8", 0xF, 0x8⟩, ⟨"WR16", 0xF, 0x9⟩, ⟨"WR32", 0xF, 0xA⟩, ⟨"WR64", 0xF, 0xB⟩]

/-- The mnemonic of a command, as the opcode table spells it. -/
def Instr.mnemonic : Instr → String
  | .openConn _ _ _ => "OPEN"
  | .closeConn => "CLOSE"
  | .select => "SELECT"
  | .release => "RELEASE"
  | .sync => "SYNC"
  | .wrbit _ => "WRBIT"
  | .rdbit => "RDBIT"
  | .rdn _ => "RDN"
  | .wr8 _ _ => "WR8"
  | .wr16 _ _ => "WR16"
  | .wr32 _ _ => "WR32"
  | .wr64 _ _ => "WR64"

end Sys2Proof
end

