-- ==== Sys2Proof/Machine/State.lean ====
section
/-! DEFINITION. The state of the block as plain data: the registers of `10_state.md` rule R20, the trace and the
responses of rule R38, and the inputs the outside world has set (log entries 5, 6, 7, 8, 25). -/

namespace Sys2Proof.Machine

/-- `LIFE` (rule R22). The fourth code never occurs and is no constructor (log entry 23). -/
inductive Life where
  | unopened
  | opened
  | closed
  deriving DecidableEq, Repr

/-- `SEL`, the slave-select state machine (rule R25). -/
inductive Sel where
  | deselected
  | selected
  deriving DecidableEq, Repr

/-- The state of one output line as the block last left it (rule R27). -/
inductive LineReg where
  | undriven
  | driven (b : Bool)
  | released
  deriving DecidableEq, Repr

/-- `PHASE`, the sequencer position (rule R29). -/
inductive Phase where
  | idle
  | wData
  | pHigh
  | pDwell
  | pLow
  | rSample
  deriving DecidableEq, Repr

/-- `KIND`, what the running command moves (rule R30). -/
inductive Kind where
  | pulse
  | write
  | read
  deriving DecidableEq, Repr

/-- `CFG`, the configuration given at construction (rule R23). -/
structure Cfg where
  order   : BitOrder
  hasDout : Bool
  hasDin  : Bool
  deriving DecidableEq, Repr

/-- The output lines, which `LineWrite` takes (`20_memory.md` rules R51, R52). -/
inductive OutLine where
  | clk
  | sel
  | dout
  deriving DecidableEq, Repr

/-- All four lines, which `LineRelease` takes (`20_memory.md` rules R51, R54). -/
inductive Line where
  | clk
  | sel
  | dout
  | din
  deriving DecidableEq, Repr

/-- One event of the trace (rule R38). -/
inductive Event where
  /-- `W(l,b)` -/
  | write (l : OutLine) (b : Bool)
  /-- `R(din)=b` -/
  | read (b : Bool)
  /-- `SLEEP` -/
  | sleep
  /-- `REL(l)` -/
  | rel (l : Line)
  deriving DecidableEq, Repr

/-- The status of a response (`30_encoding.md` rule R91). -/
inductive Status where
  | ok
  | unsupportedOperation
  | invalidArgument
  | illegalState
  | illegalCommand
  deriving DecidableEq, Repr

/-- A response (`30_encoding.md` rule R90). -/
structure Response where
  status : Status
  data   : Value
  deriving DecidableEq, Repr

/-- The peripheral as the block meets it: the answers it will give, first one first, and how many answers were drawn
from the free value when none was listed (`20_memory.md` rule R55). Log entry 5. -/
structure Oracle where
  answers : List Bool
  drawn   : Nat
  deriving DecidableEq, Repr

/-- The state of the block and its ports. -/
structure State where
  /-- `LIFE`, rule R22 -/
  life : Life
  /-- `CFG`, rule R23 -/
  cfg : Cfg
  /-- `SEL`, rule R25 -/
  sel : Sel
  /-- `CLK`, rule R27 -/
  clk : LineReg
  /-- `SELN`, the level of the select line, rule R27 -/
  seln : LineReg
  /-- `DOUT`, rule R27 -/
  dout : LineReg
  /-- `BUSY`, rule R26 -/
  busy : Bool
  /-- `PHASE`, rule R29 -/
  phase : Phase
  /-- `KIND`, rule R30 -/
  kind : Kind
  /-- `N`, rule R30 -/
  n : BitVec 8
  /-- `CNT`, rule R30 -/
  cnt : BitVec 7
  /-- `VAL`, rule R30 -/
  val : Value
  /-- `ACC`, rule R30 -/
  acc : Value
  /-- the trace, oldest event first, rule R38 -/
  trace : List Event
  /-- the responses given, oldest first, rule R38; log entry 10 -/
  responses : List Response
  /-- the command words the host presents, next one first (rules R81, R253); log entry 6 -/
  cmds : List CmdWord
  /-- the peripheral's answers (`20_memory.md` rule R55); log entry 5 -/
  din : Oracle
  /-- how many free values were loaded into `VAL` (`42_clock.md` rule R156); log entry 8 -/
  draws : Nat
  /-- the delay primitive: for each coming `Sleep(DWELL)`, first one first, how many steps of the sequencer `dly_ack` stays
  0 before it is 1 (rule R81, `20_memory.md` rule R56); log entry 25 -/
  delays : List Nat
  /-- the `rst` port (rule R81): the next step takes the reset; log entry 7 -/
  rst : Bool
  deriving DecidableEq, Repr

/-- Why the machine stops. Both are raised by `tick` alone, in states with `BUSY = 1` that no run reaches. -/
inductive Fault where
  /-- Raised by `tick`: a command is running and the sequencer is at `IDLE`, which rule R29 excludes and rule R156
  gives no primitive for. Safe: the machine stops where no rule says what it does. -/
  | sequencerIdle
  /-- Raised by `nextBit`: `CNT` has passed `N`, a case rule R156 does not name. Safe, for the same reason. -/
  | countOverrun
  deriving DecidableEq, Repr

/-- Why the model has no meaning for an instruction. -/
inductive Refusal where
  /-- Raised by `exec` for an instruction that has no meaning yet, by its mnemonic. Safe: the model says nothing of
  it. No arm of this model raises it. -/
  | notModelled (mnemonic : String)
  deriving DecidableEq, Repr

/-- The state right after reset (`10_state.md` rule R40, `70_reset_and_hazards.md` rule R260). The rule gives `CFG`
and the datapath registers no value: zero is this model's (log entries 3 and 4). -/
def State.reset : State where
  life := .unopened
  cfg := ⟨.mostSignificantFirst, false, false⟩
  sel := .deselected
  clk := .undriven
  seln := .undriven
  dout := .undriven
  busy := false
  phase := .idle
  kind := .pulse
  n := 0
  cnt := 0
  val := 0
  acc := 0
  trace := []
  responses := []
  cmds := []
  din := ⟨[], 0⟩
  draws := 0
  delays := []
  rst := false

end Sys2Proof.Machine
end

