-- ==== Sys2Proof/Machine/Operands.lean ====
section
/-! DEFINITION. The operand arithmetic of transfers: which bit of a value travels on which pulse, and the bits of a
value. `20_memory.md` rules R60 to R63, `43_write.md` rules R176 and R179, `44_read.md` rules R206 and R208. -/

namespace Sys2Proof.Machine

/-- The bit index that pulse `i` of an `n`-bit transfer carries, for `i < n` (`20_memory.md` rule R60). The
formula, not the names, is the rule (rule R61). -/
def index (i n : Nat) : BitOrder → Nat
  | .mostSignificantFirst => i
  | .leastSignificantFirst => n - 1 - i

/-- Bit `idx` of `v`: `(v >> idx) & 1` (`43_write.md` rule R176). -/
def bitAt {width : Nat} (v : BitVec width) (idx : Nat) : Bool := ((v >>> idx) &&& 1#width) == 1#width

/-- Set bit `idx` of the accumulator: `ACC | (1 << idx)` (`44_read.md` rule R206). -/
def setBit (acc : Value) (idx : Nat) : Value := acc ||| (1#64 <<< idx)

/-- The bits on the wire for an `n`-bit write, first one first, in closed form (`43_write.md` rule R179). -/
def wireBits {width : Nat} (v : BitVec width) (n : Nat) (order : BitOrder) : List Bool :=
  (List.range n).map fun i =>
    match order with
    | .mostSignificantFirst => v.getLsbD i
    | .leastSignificantFirst => v.getLsbD (n - 1 - i)

/-- The value of samples `r_0, r_1, …` under an order, in closed form (`44_read.md` rule R208). -/
def assembled (samples : List Bool) (order : BitOrder) : Nat :=
  ((List.range samples.length).map fun i =>
    match order with
    | .mostSignificantFirst => (samples.getD i false).toNat <<< i
    | .leastSignificantFirst => (samples.getD i false).toNat <<< (samples.length - 1 - i)).sum

/-- The events of one clock pulse (`42_clock.md` rule R152). -/
def pulseEvents : List Event := [.write .clk true, .sleep, .write .clk false]

/-- The events of one bit written (`43_write.md` rule R171). -/
def writeBitEvents (b : Bool) : List Event := .write .dout b :: pulseEvents

/-- The events of one bit read (`44_read.md` rule R201). -/
def readBitEvents (b : Bool) : List Event := pulseEvents ++ [.read b]

/-- The next answer of the peripheral and what remains: the first listed answer, or the next free value when none is
listed (`20_memory.md` rule R55). -/
def Oracle.next (o : Oracle) : Bool × Oracle :=
  match o.answers with
  | b :: rest => (b, { o with answers := rest })
  | [] => (Config.dinSample o.drawn, { o with drawn := o.drawn + 1 })

/-- The next `n` answers of the peripheral, first one first. -/
def Oracle.take (o : Oracle) : Nat → List Bool
  | 0 => []
  | n + 1 => o.next.1 :: Oracle.take o.next.2 n

/-- The peripheral after `n` answers. -/
def Oracle.after (o : Oracle) : Nat → Oracle
  | 0 => o
  | n + 1 => Oracle.after o.next.2 n

end Sys2Proof.Machine
end

