-- ==== Sys2Proof/Machine/Ops.lean ====
section
/-! DEFINITION. The named operations every command is made of: the line primitives and the delay (`20_memory.md`
rules R52 to R56), the pulse (`42_clock.md` rule R152), accepting a command (`30_encoding.md` rule R82), ending it with
a response or with an error (`60_exceptions.md` rule R236), and reset (`70_reset_and_hazards.md` rule R260). -/

namespace Sys2Proof.Machine

/-! ### The primitives -/

/-- `LineWrite(l, b)`: the line register becomes `Driven(b)` and `W(l,b)` is appended, also when the line already is
at that level (`20_memory.md` rule R52). -/
def State.lineWrite (s : State) (l : OutLine) (b : Bool) : State :=
  match l with
  | .clk => { s with clk := .driven b, trace := s.trace ++ [.write .clk b] }
  | .sel => { s with seln := .driven b, trace := s.trace ++ [.write .sel b] }
  | .dout => { s with dout := .driven b, trace := s.trace ++ [.write .dout b] }

/-- `LineRelease(l)`: the register of an output line becomes `Released` and `REL(l)` is appended; the data-in line has
no register (`20_memory.md` rule R54, `10_state.md` rule R28). -/
def State.lineRelease (s : State) (l : Line) : State :=
  match l with
  | .clk => { s with clk := .released, trace := s.trace ++ [.rel .clk] }
  | .sel => { s with seln := .released, trace := s.trace ++ [.rel .sel] }
  | .dout => { s with dout := .released, trace := s.trace ++ [.rel .dout] }
  | .din => { s with trace := s.trace ++ [.rel .din] }

/-- The bit `LineRead(din)` returns: the peripheral's next answer (`20_memory.md` rule R55). -/
def State.sample (s : State) : Bool := s.din.next.1

/-- The state after `LineRead(din)`: the answer is used up and `R(din)=b` is appended (`20_memory.md` rule R55). -/
def State.lineRead (s : State) : State :=
  { s with din := s.din.next.2, trace := s.trace ++ [.read s.sample] }

/-- `dly_ack` for the `Sleep(DWELL)` that is asked for: the delay primitive reports that at least `DWELL` has passed
(`30_encoding.md` rule R81). It is 1 when no step of holding off is left (log entry 25). -/
def State.dlyAcked (s : State) : Bool := s.delays.headD 0 == 0

/-- One step in which `dly_ack` is 0: the sequencer waits (`20_memory.md` rule R56: "may return any time later"). -/
def State.holdDelay (s : State) : State :=
  { s with
    delays := match s.delays with
      | [] => []
      | k :: rest => (k - 1) :: rest }

/-- `Sleep(DWELL)`, when it returns: `SLEEP` is appended, and the next `Sleep` is another request to the delay primitive
(`20_memory.md` rule R56). -/
def State.sleep (s : State) : State := { s with trace := s.trace ++ [.sleep], delays := s.delays.tail }

/-- `Pulse()` (`42_clock.md` rule R152). -/
def State.pulse (s : State) : State := ((s.lineWrite .clk true).sleep).lineWrite .clk false

/-! ### Register writes -/

/-- `CFG.order <- order; CFG.has_dout <- has_dout; CFG.has_din <- has_din` (`40_lifecycle.md` rule R112). -/
def State.setCfg (s : State) (c : Cfg) : State := { s with cfg := c }

/-- `SEL <- x`. -/
def State.setSel (s : State) (x : Sel) : State := { s with sel := x }

/-- `LIFE <- x`. -/
def State.setLife (s : State) (x : Life) : State := { s with life := x }

/-- `PHASE <- p`. -/
def State.setPhase (s : State) (p : Phase) : State := { s with phase := p }

/-! ### The beginning and the end of a command -/

/-- A command is accepted: its word leaves the port and `BUSY <- 1` (`30_encoding.md` rule R82). `rest` are the words
the host presents after it. -/
def State.accept (s : State) (rest : List CmdWord) : State := { s with cmds := rest, busy := true }

/-- The command ends with a response: `BUSY <- 0` and `PHASE <- IDLE` (`30_encoding.md` rule R82). -/
def State.finish (s : State) (r : Response) : State :=
  { s with busy := false, phase := .idle, responses := s.responses ++ [r] }

/-- `respond OK(d)` (`00_scope.md` rule R14). -/
def State.respondOk (s : State) (d : Value) : State := s.finish ⟨.ok, d⟩

/-- `raise E`, the block's whole exception mechanism: the command ends at once with the response `status = E`,
`data = 0`; nothing is saved, no mode changes and control goes nowhere (`60_exceptions.md` rule R236). There is no
return from an error (rule R240): the next command is accepted as if this one had not been issued. -/
def State.raise (s : State) (e : Status) : State := s.finish ⟨e, 0⟩

/-- What a word with a reserved op code does once accepted (`30_encoding.md` rule R86). -/
def State.reservedCommand (s : State) : State := s.raise .illegalCommand

/-- `VAL` as a transfer loads it: the value of a write; for a command that leaves `VAL` unused, a free value
(`42_clock.md` rule R156; log entry 8). -/
def State.loadedVal (s : State) (v : Option Value) : Value := v.getD (Config.unusedVal s.draws)

/-- The counter of free values after a load of `VAL`. -/
def State.loadedDraws (s : State) (v : Option Value) : Nat := if v.isSome then s.draws else s.draws + 1

/-- The datapath registers of a transfer of `n` bits (`10_state.md` rule R30, `42_clock.md` rule R156): `KIND`, `N` and
`VAL` as loaded, `CNT` and `ACC` as given. -/
def State.datapath (s : State) (k : Kind) (n : Nat) (v : Option Value) (cnt : Nat) (acc : Value) : State :=
  { s with
    kind := k
    n := BitVec.ofNat 8 n
    cnt := BitVec.ofNat 7 cnt
    val := s.loadedVal v
    acc := acc
    draws := s.loadedDraws v }

/-- A transfer of `n` bits has ended: `CNT` has counted to `N` and `ACC` holds what was read (`42_clock.md` rules R156
and R157; log entry 9). -/
def State.retire (s : State) (k : Kind) (n : Nat) (v : Option Value) (acc : Value) : State :=
  s.datapath k n v n acc

/-! ### Running a body that may raise -/

/-- What a body of pseudocode comes to: it goes on with a result, or it has raised an error in the state it had
reached (`00_scope.md` rule R14). -/
inductive Result (α : Type) where
  | ok (a : α) (s : State)
  | raised (e : Status) (s : State)
  deriving DecidableEq, Repr

/-- The next part of the body, where the first has not raised (`60_exceptions.md` rule R236: no primitive is performed
after the `raise`). -/
def Result.andThen {α β : Type} (r : Result α) (f : α → State → Result β) : Result β :=
  match r with
  | .ok a s => f a s
  | .raised e s => .raised e s

/-- The first line of every command but OPEN: `if LIFE != Open: raise IllegalState`. -/
def whenOpen (s : State) (body : State → Host.Outcome State Fault Refusal) : Host.Outcome State Fault Refusal :=
  if s.life = .opened then body s else .next (s.raise .illegalState)

/-! ### Reset -/

/-- Reset is applied: every register of the block takes its reset value, no primitive is performed, a running command
gets no response (`70_reset_and_hazards.md` rules R260 to R262). The host's words, the peripheral, the delay primitive and
the counters of free values are outside the block and stay; the request is taken (log entry 7). -/
def State.applyReset (s : State) : State :=
  { State.reset with cmds := s.cmds, din := s.din, draws := s.draws, delays := s.delays }

end Sys2Proof.Machine
end

