-- ==== Sys2Proof/Machine/Clock.lean ====
section
/-! DEFINITION. SYNC, one pulse that moves no data (`42_clock.md` rule R153). -/

namespace Sys2Proof.Machine

/-- SYNC (rule R153). On the sequencer it is a transfer of kind "pulse only" with `N = 1` (rule R156). -/
def execSync (s : State) : Host.Outcome State Fault Refusal :=
  whenOpen s fun s => .next ((s.pulse.retire .pulse 1 none 0).respondOk 0)

end Sys2Proof.Machine
end

