-- ==== Sys2Proof/Machine/Lifecycle.lean ====
section
/-! DEFINITION. OPEN and CLOSE (`40_lifecycle.md`). -/

namespace Sys2Proof.Machine

/-- `if has_dout = 1: LineWrite(dout, 0)` (rule R112). -/
def State.idleDout (s : State) (present : Bool) : State := if present then s.lineWrite .dout false else s

/-- `if present: LineRelease(l)` (rule R118). -/
def State.releaseIf (s : State) (present : Bool) (l : Line) : State := if present then s.lineRelease l else s

/-- OPEN (rule R112). -/
def execOpen (order : BitOrder) (hasDout hasDin : Bool) (s : State) : Host.Outcome State Fault Refusal :=
  if s.life = .unopened then
    let s1 := s.setCfg ⟨order, hasDout, hasDin⟩
    let s2 := (s1.lineWrite .clk false).lineWrite .sel true
    let s3 := s2.idleDout hasDout
    .next (((s3.setSel .deselected).setLife .opened).respondOk 0)
  else .next (s.raise .illegalState)

/-- CLOSE (rule R118): it does not deselect (rule R120). -/
def execClose (s : State) : Host.Outcome State Fault Refusal :=
  whenOpen s fun s =>
    let s1 := (s.lineRelease .clk).lineRelease .sel
    let s2 := (s1.releaseIf s.cfg.hasDout .dout).releaseIf s.cfg.hasDin .din
    .next ((s2.setLife .closed).respondOk 0)

end Sys2Proof.Machine
end

