-- ==== Sys2Proof/Machine/Read.lean ====
section
/-! DEFINITION. The read commands and the shift-decoder (`44_read.md`). -/

namespace Sys2Proof.Machine

/-- `ReadBit()` (rule R201): the presence check, the pulse, the sample after it. -/
def readBit (s : State) : Result Bool :=
  if s.cfg.hasDin then .ok s.pulse.sample s.pulse.lineRead else .raised .unsupportedOperation s

/-- The loop of RDN from pulse index `i`, with `left` pulses to go and the accumulator so far (rule R207). -/
def readLoop (n : Nat) : (left i : Nat) → (acc : Value) → State → Result Value
  | 0, _, acc, s => .ok acc s
  | left + 1, i, acc, s =>
    (readBit s).andThen fun b s1 =>
      readLoop n left (i + 1) (if b then setBit acc (index i n s.cfg.order) else acc) s1

/-- The body of RDN (rule R207): the width check, then the loop from `ACC = 0` (rule R206). -/
def readBits (n : Nat) (s : State) : Result Value :=
  if 64 < n then .raised .invalidArgument s else readLoop n n 0 0 s

/-- The end of a read of `n` bits: its error, or the datapath registers it leaves and OK with the value read. -/
def endRead (n : Nat) (r : Result Value) : Host.Outcome State Fault Refusal :=
  match r with
  | .raised e s => .next (s.raise e)
  | .ok acc s => .next ((s.retire .read n none acc).respondOk acc)

/-- The bit of RDBIT as response data: `zext_64(b)` (rule R202). -/
def bitValue (b : Bool) : Value := (BitVec.ofBool b).setWidth 64

/-- RDBIT (rule R202). -/
def execRdbit (s : State) : Host.Outcome State Fault Refusal :=
  whenOpen s fun s => endRead 1 ((readBit s).andThen fun b s1 => .ok (bitValue b) s1)

/-- RDN (rule R207). -/
def execRdn (n : Nat) (s : State) : Host.Outcome State Fault Refusal :=
  whenOpen s fun s => endRead n (readBits n s)

end Sys2Proof.Machine
end

