-- ==== Sys2Proof/Machine/Select.lean ====
section
/-! DEFINITION. SELECT and RELEASE, the slave-select state machine (`41_select.md`). -/

namespace Sys2Proof.Machine

/-- SELECT (rule R132); while a selection is live it is refused (rule R133). -/
def execSelect (s : State) : Host.Outcome State Fault Refusal :=
  whenOpen s fun s =>
    match s.sel with
    | .selected => .next (s.raise .illegalState)
    | .deselected => .next (((s.lineWrite .sel false).setSel .selected).respondOk 0)

/-- RELEASE (rule R136), whose effect is the source's DeselectSlave (rule R138); with no live selection it is refused
(rule R137). -/
def execRelease (s : State) : Host.Outcome State Fault Refusal :=
  whenOpen s fun s =>
    match s.sel with
    | .deselected => .next (s.raise .illegalState)
    | .selected => .next (((s.lineWrite .sel true).setSel .deselected).respondOk 0)

end Sys2Proof.Machine
end

