-- ==== Sys2Proof/Machine/Write.lean ====
section
/-! DEFINITION. The write commands and the shift-encoder (`43_write.md`). -/

namespace Sys2Proof.Machine

/-- `WriteBit(b)` (rule R171): the presence check, the data line, the pulse. -/
def writeBit (b : Bool) (s : State) : Result Unit :=
  if s.cfg.hasDout then .ok () (s.lineWrite .dout b).pulse else .raised .unsupportedOperation s

/-- The loop of `WriteBits` from pulse index `i`, with `left` pulses to go (rule R178). -/
def writeLoop {width : Nat} (v : BitVec width) (n : Nat) : (left i : Nat) → State → Result Unit
  | 0, _, s => .ok () s
  | left + 1, i, s =>
    (writeBit (bitAt v (index i n s.cfg.order)) s).andThen fun _ s1 => writeLoop v n left (i + 1) s1

/-- `WriteBits(v, n, W)` (rule R178): the width check, then the loop; the presence check is inside `WriteBit`. -/
def writeBits {width : Nat} (v : BitVec width) (n : Nat) (s : State) : Result Unit :=
  if width < n then .raised .invalidArgument s else writeLoop v n n 0 s

/-- The end of a write of `n` bits of `v`: its error, or the datapath registers it leaves and OK. -/
def endWrite {width : Nat} (v : BitVec width) (n : Nat) (r : Result Unit) : Host.Outcome State Fault Refusal :=
  match r with
  | .raised e s => .next (s.raise e)
  | .ok _ s => .next ((s.retire .write n (some (v.setWidth 64)) 0).respondOk 0)

/-- The wide writes share one body (rules R183 to R186). -/
def wideWrite {width : Nat} (v : BitVec width) (n : Nat) (s : State) : Host.Outcome State Fault Refusal :=
  whenOpen s fun s => endWrite v n (writeBits v n s)

/-- WRBIT (rule R172). -/
def execWrbit (b : Bool) (s : State) : Host.Outcome State Fault Refusal :=
  whenOpen s fun s => endWrite (BitVec.ofBool b) 1 (writeBit b s)

/-- WR8 (rule R183). -/
def execWr8 (v : BitVec 8) (n : Nat) (s : State) : Host.Outcome State Fault Refusal := wideWrite v n s

/-- WR16 (rule R184). -/
def execWr16 (v : BitVec 16) (n : Nat) (s : State) : Host.Outcome State Fault Refusal := wideWrite v n s

/-- WR32 (rule R185). -/
def execWr32 (v : BitVec 32) (n : Nat) (s : State) : Host.Outcome State Fault Refusal := wideWrite v n s

/-- WR64 (rule R186). -/
def execWr64 (v : BitVec 64) (n : Nat) (s : State) : Host.Outcome State Fault Refusal := wideWrite v n s

end Sys2Proof.Machine
end

