-- ==== Sys2Proof/Machine/Dispatch.lean ====
section
/-! DEFINITION. What each command does: one arm per constructor of `Instr`. -/

namespace Sys2Proof.Machine

def exec (i : Instr) (s : State) : Host.Outcome State Fault Refusal :=
  match i with
  | .openConn order hasDout hasDin => Sys2Proof.Machine.execOpen order hasDout hasDin s
  | .closeConn => Sys2Proof.Machine.execClose s
  | .select => Sys2Proof.Machine.execSelect s
  | .release => Sys2Proof.Machine.execRelease s
  | .sync => Sys2Proof.Machine.execSync s
  | .wrbit b => Sys2Proof.Machine.execWrbit b s
  | .rdbit => Sys2Proof.Machine.execRdbit s
  | .rdn n => Sys2Proof.Machine.execRdn n s
  | .wr8 v n => Sys2Proof.Machine.execWr8 v n s
  | .wr16 v n => Sys2Proof.Machine.execWr16 v n s
  | .wr32 v n => Sys2Proof.Machine.execWr32 v n s
  | .wr64 v n => Sys2Proof.Machine.execWr64 v n s

end Sys2Proof.Machine
end

