-- ==== Sys2Proof/Machine/Sequencer.lean ====
section
/-! DEFINITION. The sequencer (`42_clock.md` rule R156): the checks a command makes, in order (`60_exceptions.md` rule
R235), how it starts, and one step of the phase table. Rule R157 says it refines the pseudocode that `exec` follows. -/

namespace Sys2Proof.Machine

/-! ### The checks -/

/-- Step 2 of rule R235: `LIFE` wrong for the command. -/
def lifeWrong (i : Instr) (s : State) : Bool :=
  match i with
  | .openConn _ _ _ => decide (s.life ≠ .unopened)
  | .closeConn | .select | .release | .sync | .wrbit _ | .rdbit | .rdn _
  | .wr8 _ _ | .wr16 _ _ | .wr32 _ _ | .wr64 _ _ => decide (s.life ≠ .opened)

/-- Step 3 of rule R235: `SEL` wrong for SELECT or RELEASE. -/
def selWrong (i : Instr) (s : State) : Bool :=
  match i with
  | .select => decide (s.sel = .selected)
  | .release => decide (s.sel = .deselected)
  | .openConn _ _ _ | .closeConn | .sync | .wrbit _ | .rdbit | .rdn _
  | .wr8 _ _ | .wr16 _ _ | .wr32 _ _ | .wr64 _ _ => false

/-- Step 4 of rule R235: `n` greater than the entry point's width. -/
def countTooLarge (i : Instr) : Bool :=
  match i with
  | .rdn n => decide (64 < n)
  | .wr8 _ n => decide (8 < n)
  | .wr16 _ n => decide (16 < n)
  | .wr32 _ n => decide (32 < n)
  | .wr64 _ n => decide (64 < n)
  | .openConn _ _ _ | .closeConn | .select | .release | .sync | .wrbit _ | .rdbit => false

/-- Step 5 of rule R235: at least one bit to move and the needed data line absent. -/
def lineAbsent (i : Instr) (s : State) : Bool :=
  match i with
  | .wrbit _ => !s.cfg.hasDout
  | .rdbit => !s.cfg.hasDin
  | .rdn n => decide (1 ≤ n) && !s.cfg.hasDin
  | .wr8 _ n | .wr16 _ n | .wr32 _ n | .wr64 _ n => decide (1 ≤ n) && !s.cfg.hasDout
  | .openConn _ _ _ | .closeConn | .select | .release | .sync => false

/-- The error of the first check that fails, in the order of rule R235 (steps 2 to 5; step 1 is the decoder's). -/
def firstError (i : Instr) (s : State) : Option Status :=
  if lifeWrong i s then some .illegalState
  else if selWrong i s then some .illegalState
  else if countTooLarge i then some .invalidArgument
  else if lineAbsent i s then some .unsupportedOperation
  else none

/-! ### One step of the phase table -/

/-- Where the sequencer starts each bit (rule R156). -/
def firstPhase : Kind → Phase
  | .write => .wData
  | .pulse => .pHigh
  | .read => .pHigh

/-- The response data of a transfer (rule R156). `ACC` is the whole answer of RDBIT too: with `N = 1` only its bit 0 is
ever set. -/
def transferData (s : State) : Value :=
  match s.kind with
  | .read => s.acc
  | .pulse => 0
  | .write => 0

/-- "Next bit" of rule R156. -/
def nextBit (s : State) : Host.Outcome State Fault Refusal :=
  let s1 : State := { s with cnt := s.cnt + 1 }
  if s1.cnt.toNat < s1.n.toNat then .next (s1.setPhase (firstPhase s1.kind))
  else if s1.cnt.toNat = s1.n.toNat then .next (s1.respondOk (transferData s1))
  else .fault .countOverrun

/-- `idx` of rule R156. -/
def State.idx (s : State) : Nat := index s.cnt.toNat s.n.toNat s.cfg.order

/-- `if b = 1: ACC[idx] <- 1` (rule R156). -/
def State.accumulate (s : State) (b : Bool) : State :=
  { s with acc := if b then setBit s.acc s.idx else s.acc }

/-- One row of the phase table: one primitive, then the next phase (rule R156). At `P_DWELL` the primitive is `Sleep`, which
returns at `dly_ack`; until then the phase stays and nothing is performed (`30_encoding.md` rule R81; log entry 25). -/
def tick (s : State) : Host.Outcome State Fault Refusal :=
  match s.phase with
  | .idle => .fault .sequencerIdle
  | .wData => .next ((s.lineWrite .dout (bitAt s.val s.idx)).setPhase .pHigh)
  | .pHigh => .next ((s.lineWrite .clk true).setPhase .pDwell)
  | .pDwell => if s.dlyAcked then .next (s.sleep.setPhase .pLow) else .next s.holdDelay
  | .pLow =>
    match s.kind with
    | .read => .next ((s.lineWrite .clk false).setPhase .rSample)
    | .pulse => nextBit (s.lineWrite .clk false)
    | .write => nextBit (s.lineWrite .clk false)
  | .rSample => nextBit (s.lineRead.accumulate s.sample)

/-! ### Starting a command on the sequencer -/

/-- The command's checks have passed and it moves `n` bits: load the datapath; with `n = 0` respond at once, else go
to the first phase (rule R156). -/
def beginTransfer (k : Kind) (n : Nat) (v : Option Value) (s : State) : Host.Outcome State Fault Refusal :=
  let s1 := s.datapath k n v 0 0
  if n = 0 then .next (s1.respondOk 0) else .next (s1.setPhase (firstPhase k))

/-- A command whose checks have passed starts: a transfer on the sequencer, with the kind, count and value of rule R156's
second table; the other commands have no phases and run as their pseudocode says. DESIGN CHOICE: the several primitives of
OPEN and of CLOSE are one step, and no reset lands between two of them, which `70_reset_and_hazards.md` rule R262 would
allow; the spec gives these commands no `PHASE` (log entry 24). -/
def startChecked (i : Instr) (s : State) : Host.Outcome State Fault Refusal :=
  match i with
  | .sync => beginTransfer .pulse 1 none s
  | .wrbit b => beginTransfer .write 1 (some ((BitVec.ofBool b).setWidth 64)) s
  | .wr8 v n => beginTransfer .write n (some (v.setWidth 64)) s
  | .wr16 v n => beginTransfer .write n (some (v.setWidth 64)) s
  | .wr32 v n => beginTransfer .write n (some (v.setWidth 64)) s
  | .wr64 v n => beginTransfer .write n (some v) s
  | .rdbit => beginTransfer .read 1 none s
  | .rdn n => beginTransfer .read n none s
  | .openConn _ _ _ | .closeConn | .select | .release => exec i s

/-- A command begins: the first failing check ends it (rule R235), else it starts. -/
def beginCommand (i : Instr) (s : State) : Host.Outcome State Fault Refusal :=
  match firstError i s with
  | some e => .next (s.raise e)
  | none => startChecked i s

/-- Step the sequencer until the command has responded, at most `fuel` phases. -/
def runPhases : (fuel : Nat) → State → Host.Outcome State Fault Refusal
  | 0, s => .next s
  | fuel + 1, s =>
    if s.busy then
      match tick s with
      | .next s1 => runPhases fuel s1
      | .fault r => .fault r
      | .refused r => .refused r
    else .next s

/-- The phases of the longest transfer: four for each of 64 bits (rules R156, R158). -/
def longestTransfer : Nat := 256

/-- Steps of the sequencer in which every command has responded: the phases of the longest transfer and every step for which
the delay primitive holds off. -/
def State.stepsToEnd (s : State) : Nat := longestTransfer + s.delays.sum

end Sys2Proof.Machine
end

