-- ==== Sys2Proof/Machine/Accept.lean ====
section
/-! DEFINITION. What happens at the command port in one step (`30_encoding.md` rules R81, R82, R86,
`70_reset_and_hazards.md` rules R260, R262). -/

namespace Sys2Proof.Machine

/-- An idle block with its port: with a word presented it is accepted and decoded, and `start` says what the command
does in this step; a reserved op code ends in IllegalCommand (rule R86); with no word presented nothing happens
(`42_clock.md` rule R159, log entry 20). -/
def acceptNext (start : Instr → State → Host.Outcome State Fault Refusal) (s : State) :
    Host.Outcome State Fault Refusal :=
  match s.cmds with
  | [] => .next s
  | w :: rest =>
    match decode w with
    | .ok i => start i (s.accept rest)
    | .error (.reservedOp _) => .next (s.accept rest).reservedCommand

/-- One step: a reset that is applied comes first; a running command goes on by one phase and no other is accepted;
an idle block looks at its port (log entries 1 and 7). -/
def stepWith (start : Instr → State → Host.Outcome State Fault Refusal) (s : State) :
    Host.Outcome State Fault Refusal :=
  if s.rst then .next s.applyReset
  else if s.busy then tick s
  else acceptNext start s

/-- The finer machine: an accepted command begins, and later steps carry it on by one phase each (rule R156). -/
def phaseStep (s : State) : Host.Outcome State Fault Refusal := stepWith beginCommand s

/-- The word is next at the command port and the block is ready to take it: not in reset and not busy. -/
def State.presentWord (s : State) (w : CmdWord) : State :=
  { s with cmds := w :: s.cmds, rst := false, busy := false, phase := .idle }

end Sys2Proof.Machine
end

