-- ==== Sys2Proof/Machine/Step.lean ====
section
/-! DEFINITION. One step of the block: an accepted command runs to its response, as its pseudocode says
(`42_clock.md` rule R157: "the pseudocode is the definition"). -/

namespace Sys2Proof.Machine

/-- One step of the machine. -/
def step (s : State) : Host.Outcome State Fault Refusal := stepWith exec s

/-- `s` with an instruction's word, its bits numbered as the opcode table numbers them, as the next word the host
presents, so that the next step accepts it (log entries 6 and 21). -/
def State.withFetchWord (s : State) (nbits w : Nat) : State := s.presentWord (BitVec.ofNat 80 (w % 2 ^ nbits))

end Sys2Proof.Machine
end

