-- ==== Sys2Proof/Machine/Flags.lean ====
section
/-! DEFINITION. The block has no condition codes and no sticky status flags (`10_state.md` rule R32). What a command
reports is its response: this file holds the response word, and the bit codes of the registers that the spec numbers
(`30_encoding.md` rules R90 to R92, `10_state.md` rules R22, R23, R25, R30). -/

namespace Sys2Proof.Machine

/-- The number of a status (rule R91). -/
def Status.code : Status → BitVec 4
  | .ok => 0
  | .unsupportedOperation => 1
  | .invalidArgument => 2
  | .illegalState => 3
  | .illegalCommand => 4

/-- The 68-bit response word: `status` in bits 3:0, `data` in bits 67:4 (rule R90). -/
def Response.word (r : Response) : RspWord := r.data ++ r.status.code

/-- The response a host reads from a response word; statuses 5 to 15 are never produced (rule R91). -/
def Response.ofWord (w : RspWord) : Option Response :=
  let data := w.extractLsb' 4 64
  match (w.extractLsb' 0 4).toNat with
  | 0 => some ⟨.ok, data⟩
  | 1 => some ⟨.unsupportedOperation, data⟩
  | 2 => some ⟨.invalidArgument, data⟩
  | 3 => some ⟨.illegalState, data⟩
  | 4 => some ⟨.illegalCommand, data⟩
  | _ => none

/-- The two bits of `LIFE` (rule R22). -/
def Life.code : Life → BitVec 2
  | .unopened => 0
  | .opened => 1
  | .closed => 2

/-- The three bits of `CFG`: `order` in bit 0, `has_dout` in bit 1, `has_din` in bit 2 (rule R23). -/
def Cfg.code (c : Cfg) : BitVec 3 :=
  BitVec.ofBool c.hasDin ++ BitVec.ofBool c.hasDout ++ BitVec.ofBool c.order.code

/-- The bit of `SEL` (rule R25). -/
def Sel.code : Sel → BitVec 1
  | .deselected => 0
  | .selected => 1

/-- The two bits of `KIND` (rule R30). -/
def Kind.code : Kind → BitVec 2
  | .pulse => 0
  | .write => 1
  | .read => 2

end Sys2Proof.Machine
end

