-- ==== Sys2Proof/Machine/Assembly.lean ====
section
/-! DEFINITION. The text syntax of commands and responses (`30_encoding.md` rule R95), over lists of characters, so that
it can be evaluated. Points the rule leaves open are log entry 22. -/

namespace Sys2Proof.Machine

/-- The text cut at every comma. -/
def splitAtCommas : List Char → List (List Char)
  | [] => [[]]
  | c :: cs =>
    if c = ',' then [] :: splitAtCommas cs
    else
      match splitAtCommas cs with
      | [] => [[c]]
      | w :: ws => (c :: w) :: ws

/-- The text without blanks at its two ends. -/
def trimBlanks (cs : List Char) : List Char :=
  ((cs.dropWhile (· = ' ')).reverse.dropWhile (· = ' ')).reverse

/-- The value of a digit, decimal or hexadecimal. -/
def digitValue (c : Char) : Nat :=
  if '0' ≤ c ∧ c ≤ '9' then c.toNat - '0'.toNat
  else if 'a' ≤ c ∧ c ≤ 'f' then c.toNat - 'a'.toNat + 10
  else if 'A' ≤ c ∧ c ≤ 'F' then c.toNat - 'A'.toNat + 10
  else 16

/-- The number whose digits to a base are given after `sofar`; none at a character that is no digit of the base. -/
def digitsToNat (base : Nat) : (sofar : Nat) → List Char → Option Nat
  | sofar, [] => some sofar
  | sofar, c :: cs => if digitValue c < base then digitsToNat base (sofar * base + digitValue c) cs else none

/-- A number in decimal, or in hexadecimal after `0x`. -/
def parseNumber (cs : List Char) : Option Nat :=
  match cs with
  | [] => none
  | ['0', 'x'] => none
  | '0' :: 'x' :: ds => digitsToNat 16 0 ds
  | ds => digitsToNat 10 0 ds

/-- A value below `2 ^ width`. -/
def parseValue (width : Nat) (cs : List Char) : Option (BitVec width) := do
  let v ← parseNumber cs
  if v < 2 ^ width then some (BitVec.ofNat width v) else none

/-- `msf` or `lsf`. -/
def parseOrder (cs : List Char) : Option BitOrder :=
  if cs = "msf".toList then some .mostSignificantFirst
  else if cs = "lsf".toList then some .leastSignificantFirst
  else none

/-- The optional `dout` and `din` of OPEN, in that order. -/
def parsePresence (args : List (List Char)) : Option (Bool × Bool) :=
  if args = [] then some (false, false)
  else if args = ["dout".toList] then some (true, false)
  else if args = ["din".toList] then some (false, true)
  else if args = ["dout".toList, "din".toList] then some (true, true)
  else none

/-- A command from its mnemonic and its operands. -/
def parseOperands (mnemonic : List Char) (args : List (List Char)) : Option Instr :=
  if mnemonic = "OPEN".toList then
    match args with
    | order :: rest => do
      let o ← parseOrder order
      let p ← parsePresence rest
      some (.openConn o p.1 p.2)
    | [] => none
  else if mnemonic = "WRBIT".toList then
    match args with
    | [b] => do
      let v ← parseNumber b
      if v = 0 then some (.wrbit false) else if v = 1 then some (.wrbit true) else none
    | _ => none
  else if mnemonic = "RDN".toList then
    match args with
    | [n] => do some (.rdn (← parseNumber n))
    | _ => none
  else if mnemonic = "WR8".toList then
    match args with
    | [v, n] => do some (.wr8 (← parseValue 8 v) (← parseNumber n))
    | _ => none
  else if mnemonic = "WR16".toList then
    match args with
    | [v, n] => do some (.wr16 (← parseValue 16 v) (← parseNumber n))
    | _ => none
  else if mnemonic = "WR32".toList then
    match args with
    | [v, n] => do some (.wr32 (← parseValue 32 v) (← parseNumber n))
    | _ => none
  else if mnemonic = "WR64".toList then
    match args with
    | [v, n] => do some (.wr64 (← parseValue 64 v) (← parseNumber n))
    | _ => none
  else if args ≠ [] then none
  else if mnemonic = "CLOSE".toList then some .closeConn
  else if mnemonic = "SELECT".toList then some .select
  else if mnemonic = "RELEASE".toList then some .release
  else if mnemonic = "SYNC".toList then some .sync
  else if mnemonic = "RDBIT".toList then some .rdbit
  else none

/-- One line of a program: a mnemonic, and after a blank the operands, separated by commas. -/
def parseCommand (line : List Char) : Option Instr :=
  let cs := trimBlanks line
  let mnemonic := cs.takeWhile (· ≠ ' ')
  let rest := trimBlanks (cs.dropWhile (· ≠ ' '))
  parseOperands mnemonic (if rest = [] then [] else (splitAtCommas rest).map trimBlanks)

/-- The command word of one line of a program; a count above 255 has none. -/
def assemble (line : List Char) : Option CmdWord := (parseCommand line).bind encode

/-- The name of a status as a response is written. -/
def Status.name : Status → String
  | .ok => "OK"
  | .unsupportedOperation => "UnsupportedOperation"
  | .invalidArgument => "InvalidArgument"
  | .illegalState => "IllegalState"
  | .illegalCommand => "IllegalCommand"

/-- A number in hexadecimal after `0x`, with capital digits. -/
def renderHex (n : Nat) : List Char := '0' :: 'x' :: (Nat.toDigits 16 n).map Char.toUpper

/-- A response as it is written: `-> OK`, `-> OK 0x2A`, `-> UnsupportedOperation`. -/
def Response.render (r : Response) : List Char :=
  "-> ".toList ++ r.status.name.toList ++ (if r.data = 0 then [] else ' ' :: renderHex r.data.toNat)

/-- A bit order as it is written. -/
def BitOrder.render : BitOrder → String
  | .mostSignificantFirst => "msf"
  | .leastSignificantFirst => "lsf"

/-- Two operands, separated by a comma. -/
def renderPair (v n : Nat) : List Char := renderHex v ++ ", ".toList ++ Nat.toDigits 10 n

/-- The operands of a command as they are written. -/
def renderOperands : Instr → List Char
  | .openConn order hasDout hasDin =>
    (BitOrder.render order).toList ++ (if hasDout then ", dout".toList else [])
      ++ (if hasDin then ", din".toList else [])
  | .closeConn | .select | .release | .sync | .rdbit => []
  | .wrbit b => if b then ['1'] else ['0']
  | .rdn n => Nat.toDigits 10 n
  | .wr8 v n => renderPair v.toNat n
  | .wr16 v n => renderPair v.toNat n
  | .wr32 v n => renderPair v.toNat n
  | .wr64 v n => renderPair v.toNat n

/-- A command as it is written, values in hexadecimal and counts in decimal. -/
def renderCommand (i : Instr) : List Char :=
  let ops := renderOperands i
  i.mnemonic.toList ++ (if ops = [] then [] else ' ' :: ops)

end Sys2Proof.Machine
end

