-- ==== Sys2Proof/Machine/ClosedForm.lean ====
section
/-! DEFINITION. What a whole transfer does to the state, in closed form, with no loop (`43_write.md` rule R179,
`44_read.md` rule R208). Statements and laws compare the commands, which run the pseudocode's loops, with these. -/

namespace Sys2Proof.Machine

/-- The state but for what no command observes: the datapath registers, whose contents have meaning only while a command
runs (`10_state.md` rules R20, R30), and the counter of the free values loaded into one of them. Two states with the same
observable part differ in nothing else. -/
def State.observable (s : State) : State :=
  { s with kind := .pulse, n := 0, cnt := 0, val := 0, acc := 0, draws := 0 }

/-- The state after the given bits were written, first one first: four events and one delay for each bit, the clock low,
`dout` at the last bit (rule R179). With no bit nothing changes (rule R181). -/
def State.afterWrites (s : State) (bits : List Bool) : State :=
  { s with
    clk := if bits.isEmpty then s.clk else .driven false
    dout := match bits.getLast? with
      | some b => .driven b
      | none => s.dout
    delays := s.delays.drop bits.length
    trace := s.trace ++ bits.flatMap writeBitEvents }

/-- The state after `n` bits were read: four events for each bit, the clock low, the peripheral's next `n` answers used
up (rule R208). -/
def State.afterReads (s : State) (n : Nat) : State :=
  { s with
    clk := if n = 0 then s.clk else .driven false
    din := s.din.after n
    delays := s.delays.drop n
    trace := s.trace ++ (s.din.take n).flatMap readBitEvents }

/-- A write of `n` bits of `v` from acceptance to its response, in closed form (rules R156, R179). -/
def State.wroteBits {width : Nat} (s : State) (v : BitVec width) (n : Nat) : State :=
  let bits := wireBits v n s.cfg.order
  { s with
    clk := if n = 0 then s.clk else .driven false
    dout := match bits.getLast? with
      | some b => .driven b
      | none => s.dout
    trace := s.trace ++ bits.flatMap writeBitEvents
    delays := s.delays.drop n
    busy := false
    phase := .idle
    kind := .write
    n := BitVec.ofNat 8 n
    cnt := BitVec.ofNat 7 n
    val := v.setWidth 64
    acc := 0
    responses := s.responses ++ [⟨.ok, 0⟩] }

/-- A read of `n` bits from acceptance to its response, in closed form (rules R156, R208). -/
def State.didRead (s : State) (n : Nat) : State :=
  let samples := s.din.take n
  let data := BitVec.ofNat 64 (assembled samples s.cfg.order)
  { s with
    clk := if n = 0 then s.clk else .driven false
    din := s.din.after n
    trace := s.trace ++ samples.flatMap readBitEvents
    delays := s.delays.drop n
    busy := false
    phase := .idle
    kind := .read
    n := BitVec.ofNat 8 n
    cnt := BitVec.ofNat 7 n
    val := Config.unusedVal s.draws
    acc := data
    draws := s.draws + 1
    responses := s.responses ++ [⟨.ok, data⟩] }

/-- A command that passes its checks from acceptance to its response, in closed form. -/
def State.completed (s : State) (i : Instr) : State :=
  match i with
  | .openConn order hasDout hasDin =>
    { s with
      life := .opened
      cfg := ⟨order, hasDout, hasDin⟩
      sel := .deselected
      clk := .driven false
      seln := .driven true
      dout := if hasDout then .driven false else s.dout
      trace := s.trace ++ [.write .clk false, .write .sel true] ++ (if hasDout then [.write .dout false] else [])
      busy := false
      phase := .idle
      responses := s.responses ++ [⟨.ok, 0⟩] }
  | .closeConn =>
    { s with
      life := .closed
      clk := .released
      seln := .released
      dout := if s.cfg.hasDout then .released else s.dout
      trace := s.trace ++ [.rel .clk, .rel .sel] ++ (if s.cfg.hasDout then [.rel .dout] else []) ++
        (if s.cfg.hasDin then [.rel .din] else [])
      busy := false
      phase := .idle
      responses := s.responses ++ [⟨.ok, 0⟩] }
  | .select =>
    { s with
      sel := .selected
      seln := .driven false
      trace := s.trace ++ [.write .sel false]
      busy := false
      phase := .idle
      responses := s.responses ++ [⟨.ok, 0⟩] }
  | .release =>
    { s with
      sel := .deselected
      seln := .driven true
      trace := s.trace ++ [.write .sel true]
      busy := false
      phase := .idle
      responses := s.responses ++ [⟨.ok, 0⟩] }
  | .sync =>
    { s with
      clk := .driven false
      trace := s.trace ++ pulseEvents
      delays := s.delays.drop 1
      busy := false
      phase := .idle
      kind := .pulse
      n := 1
      cnt := 1
      val := Config.unusedVal s.draws
      acc := 0
      draws := s.draws + 1
      responses := s.responses ++ [⟨.ok, 0⟩] }
  | .wrbit b => s.wroteBits (BitVec.ofBool b) 1
  | .rdbit => s.didRead 1
  | .rdn n => s.didRead n
  | .wr8 v n => s.wroteBits v n
  | .wr16 v n => s.wroteBits v n
  | .wr32 v n => s.wroteBits v n
  | .wr64 v n => s.wroteBits v n

end Sys2Proof.Machine
end

