-- ==== Sys2Proof/Machine/Ports.lean ====
section
/-! DEFINITION. The ports of the block as functions of its state (`30_encoding.md` rule R81). -/

namespace Sys2Proof.Machine

/-- `cmd_ready`, which equals `BUSY = 0`. -/
def State.cmdReady (s : State) : Bool := !s.busy

/-- `cmd_valid`: the host presents a command. -/
def State.cmdValid (s : State) : Bool := !s.cmds.isEmpty

/-- `cmd`: the word presented, if any. -/
def State.cmdPort (s : State) : Option CmdWord := s.cmds.head?

/-- `rsp_valid`: the response to the last accepted command is given. -/
def State.rspValid (s : State) : Bool := !s.busy && !s.responses.isEmpty

/-- `rsp`: the response word given, if any. -/
def State.rspPort (s : State) : Option RspWord :=
  if s.rspValid then s.responses.getLast?.map Response.word else none

/-- `x_oe` of an output line: 1 when its register is `Driven(b)`. -/
def LineReg.enable : LineReg → Bool
  | .driven _ => true
  | .undriven => false
  | .released => false

/-- `x_o` of an output line: its level where it is driven. A line not driven carries no level
(`93_implementation_defined.md` U8; log entry 17). -/
def LineReg.level : LineReg → Option Bool
  | .driven b => some b
  | .undriven => none
  | .released => none

/-- The register of an output line. -/
def State.lineReg (s : State) : OutLine → LineReg
  | .clk => s.clk
  | .sel => s.seln
  | .dout => s.dout

/-- `DIN_OWNED`, the port `din_own` (`10_state.md` rule R28). -/
def State.dinOwned (s : State) : Bool := s.cfg.hasDin && decide (s.life = .opened)

/-- `dly_req`: the sequencer is at a `Sleep(DWELL)`. -/
def State.dlyReq (s : State) : Bool := s.busy && decide (s.phase = .pDwell)

/-- `dly_ack`: while a delay is asked for, the delay primitive's answer (log entry 25). -/
def State.dlyAck (s : State) : Bool := s.dlyReq && s.dlyAcked

/-- What the last event on an output line in a trace left the line as (`10_state.md` rule R27): nothing yet
performed is `Undriven`. -/
def lineAfter (l : OutLine) (trace : List Event) : LineReg :=
  trace.foldl (init := .undriven) fun r e =>
    match e with
    | .write l' b => if l' = l then .driven b else r
    | .rel .clk => if l = .clk then .released else r
    | .rel .sel => if l = .sel then .released else r
    | .rel .dout => if l = .dout then .released else r
    | .rel .din => r
    | .read _ => r
    | .sleep => r

end Sys2Proof.Machine
end

