-- ==== Sys2Proof/Machine/Program.lean ====
section
/-! DEFINITION. The host's side: commands issued one after another, and the scoped guard `WITHSEL`
(`60_exceptions.md` rule R253, `30_encoding.md` rule R96). -/

namespace Sys2Proof.Machine

/-- The next part of a run, where the last did not stop. -/
def thenRun (o : Host.Outcome State Fault Refusal) (f : State → Host.Outcome State Fault Refusal) :
    Host.Outcome State Fault Refusal :=
  match o with
  | .next s => f s
  | .fault r => .fault r
  | .refused r => .refused r

/-- Commands issued in order, each after the response to the one before (rule R253). -/
def runCommands : List Instr → State → Host.Outcome State Fault Refusal
  | [], s => .next s
  | i :: rest, s => thenRun (exec i s) (runCommands rest)

/-- The response to the last command was OK. -/
def State.lastOk (s : State) : Bool :=
  match s.responses.getLast? with
  | some r => decide (r.status = .ok)
  | none => true

/-- Commands issued in order by a host that gives up the rest at the first status other than OK (rule R96). -/
def runUntilError : List Instr → State → Host.Outcome State Fault Refusal
  | [], s => .next s
  | i :: rest, s => thenRun (exec i s) fun s1 => if s1.lastOk then runUntilError rest s1 else .next s1

/-- `WITHSEL { body }` written out: SELECT, the body, RELEASE (rule R96). -/
def withSel (body : List Instr) : List Instr := .select :: body ++ [.release]

/-- `WITHSEL { body }` by a host that gives up the rest of the body at an error: RELEASE is still issued, once
(rule R96). -/
def runGuarded (body : List Instr) (s : State) : Host.Outcome State Fault Refusal :=
  thenRun (exec .select s) fun s1 => thenRun (runUntilError body s1) (exec .release)

/-- A finite list of command words is the program the host will issue (rule R253). -/
def State.withProgram (s : State) (words : List CmdWord) : State := { s with cmds := words }

end Sys2Proof.Machine
end

