-- ==== Sys2Proof/Machine/Timing.lean ====
section
/-! DEFINITION. The one time the spec gives, the lower bound `DWELL` on the clock's high phase, and the shape of a pulse
(`70_reset_and_hazards.md` rule R276, `42_clock.md` rules R154, R155, `20_memory.md` rules R56, R57). The model carries no
time; this is a reading of a trace. -/

namespace Sys2Proof.Machine

/-- The least time an event takes: `DWELL` for `SLEEP`, nothing for a line primitive (rules R53, R56). -/
def Event.leastTime : Event → Nat
  | .sleep => Config.dwell
  | .write _ _ => 0
  | .read _ => 0
  | .rel _ => 0

/-- The least time a trace takes (rule R276). -/
def leastTime (trace : List Event) : Nat := (trace.map Event.leastTime).sum

/-- Every rise of the clock is followed at once by the dwell and the fall, and there is no dwell elsewhere (rules R154,
R155). -/
def pulsesShaped : List Event → Bool
  | [] => true
  | .write .clk true :: .sleep :: .write .clk false :: rest => pulsesShaped rest
  | .write .clk true :: _ => false
  | .sleep :: _ => false
  | _ :: rest => pulsesShaped rest

/-- How often a command performs each primitive: the columns of `20_memory.md` rule R57. -/
structure PrimitiveCounts where
  clk   : Nat
  sel   : Nat
  dout  : Nat
  din   : Nat
  sleep : Nat
  rel   : Nat
  deriving DecidableEq, Repr

/-- The primitives in a trace. -/
def primitiveCounts (trace : List Event) : PrimitiveCounts where
  clk := trace.countP fun e => e = .write .clk true ∨ e = .write .clk false
  sel := trace.countP fun e => e = .write .sel true ∨ e = .write .sel false
  dout := trace.countP fun e => e = .write .dout true ∨ e = .write .dout false
  din := trace.countP fun e => e = .read true ∨ e = .read false
  sleep := trace.countP fun e => e = .sleep
  rel := trace.countP fun e => e = .rel .clk ∨ e = .rel .sel ∨ e = .rel .dout ∨ e = .rel .din

/-- The table of rule R57, for a command that ends with status OK; `cfg` is the configuration the command runs
under. -/
def primitiveTable (i : Instr) (cfg : Cfg) : PrimitiveCounts :=
  match i with
  | .openConn _ hasDout _ => ⟨1, 1, hasDout.toNat, 0, 0, 0⟩
  | .closeConn => ⟨0, 0, 0, 0, 0, 2 + cfg.hasDout.toNat + cfg.hasDin.toNat⟩
  | .select => ⟨0, 1, 0, 0, 0, 0⟩
  | .release => ⟨0, 1, 0, 0, 0, 0⟩
  | .sync => ⟨2, 0, 0, 0, 1, 0⟩
  | .wrbit _ => ⟨2, 0, 1, 0, 1, 0⟩
  | .wr8 _ n => ⟨2 * n, 0, n, 0, n, 0⟩
  | .wr16 _ n => ⟨2 * n, 0, n, 0, n, 0⟩
  | .wr32 _ n => ⟨2 * n, 0, n, 0, n, 0⟩
  | .wr64 _ n => ⟨2 * n, 0, n, 0, n, 0⟩
  | .rdbit => ⟨2, 0, 0, 1, 1, 0⟩
  | .rdn n => ⟨2 * n, 0, 0, n, n, 0⟩

end Sys2Proof.Machine
end

