-- ==== Sys2Proof/Safety.lean ====
section
/-! DEFINITION. What counts as a good state and a good run: the invariant of the block's state (`10_state.md` rules R27,
R29, R33, `42_clock.md` rules R154, R156, `40_lifecycle.md` rule R121), and when a program is at fault
(`60_exceptions.md` rules R233, R250, R253). -/

namespace Sys2Proof.Machine

/-! ### The invariant -/

/-- The three line registers are what the events of the trace last left the lines as (rule R27). -/
structure LinesFollowTrace (s : State) : Prop where
  clk  : s.clk = lineAfter .clk s.trace
  seln : s.seln = lineAfter .sel s.trace
  dout : s.dout = lineAfter .dout s.trace

/-- Before OPEN: nothing has been driven and no command runs (rule R40, `70_reset_and_hazards.md` rule R265). -/
structure UnopenedState (s : State) : Prop where
  idle  : s.busy = false
  sel   : s.sel = .deselected
  clk   : s.clk = .undriven
  seln  : s.seln = .undriven
  dout  : s.dout = .undriven

/-- While the Connection is open: the select line is low exactly when selected (it is active low), and the data-out line
is driven exactly when present (rule R33). -/
structure OpenState (s : State) : Prop where
  seln : s.seln = .driven (decide (s.sel = .deselected))
  dout : if s.cfg.hasDout then s.dout = .driven true ∨ s.dout = .driven false else s.dout = .undriven

/-- After CLOSE: the lines are released and no command runs (`40_lifecycle.md` rules R118, R121). -/
structure ClosedState (s : State) : Prop where
  idle : s.busy = false
  clk  : s.clk = .released
  seln : s.seln = .released
  dout : s.dout = if s.cfg.hasDout then .released else .undriven

/-- While no command runs the sequencer is idle, and the clock of an open Connection is low (rules R29, R154). -/
structure RestState (s : State) : Prop where
  phase : s.phase = .idle
  clock : s.life = .opened → s.clk = .driven false

/-- While a transfer runs: the Connection is open, the line it needs is present, the pulse index is below the number of
bits, the phase belongs to the kind of transfer, and the clock is high exactly in the high phase of a pulse (rules R156,
R158). -/
structure RunningState (s : State) : Prop where
  life  : s.life = .opened
  phase : s.phase ≠ .idle
  count : s.cnt.toNat < s.n.toNat
  width : s.n.toNat ≤ 64
  dout  : s.kind = .write → s.cfg.hasDout = true
  din   : s.kind = .read → s.cfg.hasDin = true
  wData : s.phase = .wData → s.kind = .write
  rSample : s.phase = .rSample → s.kind = .read
  clock : s.clk = .driven (decide (s.phase = .pDwell ∨ s.phase = .pLow))

/-- The invariant of the block. -/
structure Inv (s : State) : Prop where
  lines    : LinesFollowTrace s
  unopened : s.life = .unopened → UnopenedState s
  opened   : s.life = .opened → OpenState s
  closed   : s.life = .closed → ClosedState s
  rest     : s.busy = false → RestState s
  running  : s.busy = true → RunningState s

/-! ### Programs at fault -/

/-- A response a program must not reach: one that answers a broken duty of rule R250 (any of the three errors), or a case
the spec defines only so that the hardware is total (rule R233, `93_implementation_defined.md` U1 to U4, U6). -/
def Response.atFault (r : Response) : Bool := decide (r.status ≠ .ok)

/-- CLOSE was issued while a selection was live, which no response reports: a SELECT has been left without its RELEASE, and
CLOSE was not issued after the last RELEASE (rule R250; `SEL` stays as it was, `40_lifecycle.md` rule R118). -/
def State.closedSelected (s : State) : Bool := decide (s.life = .closed) && decide (s.sel = .selected)

/-- The program is at fault: it has broken a duty of rule R250, or reached a case the source gives no meaning to (log
entry 2). -/
def State.programAtFault (s : State) : Bool := s.responses.any Response.atFault || s.closedSelected

/-- A SELECT is waiting for its RELEASE. While a program runs this is no fault; at its end it is a duty of rule R250 that was
not met (log entry 26). -/
def State.releaseOwed (s : State) : Bool := decide (s.sel = .selected)

/-- The end of a run (rule R253): the last response is given and no primitive is pending. -/
def State.atEndOfRun (s : State) : Bool := !s.busy && decide (s.phase = .idle) && s.cmds.isEmpty && !s.rst

/-- A safe run of a program, in the terms claims use: it answers a next state at the end of the run, the program is not at
fault, and every SELECT has had its RELEASE. -/
def SafeEnd (o : Host.Outcome State Fault Refusal) : Prop :=
  ∃ s, o = .next s ∧ s.atEndOfRun = true ∧ s.programAtFault = false ∧ s.releaseOwed = false

end Sys2Proof.Machine
end

