-- ==== Sys2Proof/Certificates/Slice0/Obligations.lean ====
section
/-! DEFINITION. The statements for the provers. Every statement is over all states that meet its hypotheses, also states
that no run reaches. `t.observable = ({ s with … }).observable` says that `t` is `s` with the named fields changed and
nothing else, but for the datapath registers, which have no meaning after a response (rule R30). `s.delays.drop n` says that
the delay primitive has been asked `n` times (log entry 25). -/

open Sys2Proof Sys2Proof.Machine

/-! ### Reset, OPEN and CLOSE -/

/-- Rule R40: the values the rule gives for reset. (`CFG` and the datapath registers are the model's choice, log entries
3 and 4, and are not stated.) -/
def Obligations.ResetValuesAreThoseOfTheSpec : Prop :=
  State.reset.life = .unopened ∧ State.reset.sel = .deselected ∧ State.reset.clk = .undriven ∧
    State.reset.seln = .undriven ∧ State.reset.dout = .undriven ∧ State.reset.busy = false ∧
    State.reset.phase = .idle ∧ State.reset.trace = []

/-- Rules R260, R261, R262: reset takes every state, in the middle of a command too, to the values rule R40 gives, with no
event; the host's words, the peripheral and the delay primitive are outside the block and stay, and the request is taken (log
entry 7). -/
def Obligations.ResetLandsInEveryState : Prop :=
  ∀ s : State, s.rst = true →
    ∃ t, step s = .next t ∧ t.life = .unopened ∧ t.sel = .deselected ∧ t.clk = .undriven ∧ t.seln = .undriven ∧
      t.dout = .undriven ∧ t.busy = false ∧ t.phase = .idle ∧ t.trace = [] ∧ t.rst = false ∧ t.cmds = s.cmds ∧
      t.din = s.din ∧ t.delays = s.delays

/-- Rules R112, R114: OPEN from `Unopened`, for every order and every combination of data lines; refused otherwise. -/
def Obligations.OpenConstructsTheConnection : Prop :=
  ∀ (order : BitOrder) (hasDout hasDin : Bool) (s : State),
    opField (encodeWord (.openConn order hasDout hasDin)) = 0x0 ∧
    (s.life = .unopened →
      exec (.openConn order hasDout hasDin) s = .next
        { s with
          life := .opened
          cfg := ⟨order, hasDout, hasDin⟩
          sel := .deselected
          clk := .driven false
          seln := .driven true
          dout := if hasDout then .driven false else s.dout
          trace := s.trace ++ [.write .clk false, .write .sel true] ++
            (if hasDout then [.write .dout false] else [])
          busy := false
          phase := .idle
          responses := s.responses ++ [⟨.ok, 0⟩] }) ∧
    (s.life ≠ .unopened →
      exec (.openConn order hasDout hasDin) s = .next
        { s with busy := false, phase := .idle, responses := s.responses ++ [⟨.illegalState, 0⟩] })

/-- Rule R113: the state immediately after an OPEN that responded OK, from a state that meets the invariant. -/
def Obligations.IdleInvariantAfterOpen : Prop :=
  ∀ (order : BitOrder) (hasDout hasDin : Bool) (s : State), Inv s → s.life = .unopened →
    ∃ t, exec (.openConn order hasDout hasDin) s = .next t ∧ t.life = .opened ∧ t.cfg = ⟨order, hasDout, hasDin⟩ ∧
      t.sel = .deselected ∧ t.clk = .driven false ∧ t.seln = .driven true ∧
      t.dout = (if hasDout then .driven false else .undriven) ∧ t.busy = false ∧ t.phase = .idle

/-- Rule R118: CLOSE of an open Connection, selected or not; refused otherwise. -/
def Obligations.CloseReleasesTheLines : Prop :=
  ∀ s : State,
    opField (encodeWord .closeConn) = 0x1 ∧
    (s.life = .opened →
      exec .closeConn s = .next
        { s with
          life := .closed
          clk := .released
          seln := .released
          dout := if s.cfg.hasDout then .released else s.dout
          trace := s.trace ++ [.rel .clk, .rel .sel] ++ (if s.cfg.hasDout then [.rel .dout] else []) ++
            (if s.cfg.hasDin then [.rel .din] else [])
          busy := false
          phase := .idle
          responses := s.responses ++ [⟨.ok, 0⟩] }) ∧
    (s.life ≠ .opened →
      exec .closeConn s = .next
        { s with busy := false, phase := .idle, responses := s.responses ++ [⟨.illegalState, 0⟩] })

/-- Rules R121, R233: before OPEN and after CLOSE every command but OPEN ends with IllegalState and changes nothing; after
CLOSE, OPEN does too. -/
def Obligations.NothingRunsOutsideAnOpenConnection : Prop :=
  ∀ (i : Instr) (s : State), s.life ≠ .opened →
    (∀ order hasDout hasDin, i = .openConn order hasDout hasDin → s.life = .closed) →
    exec i s = .next { s with busy := false, phase := .idle, responses := s.responses ++ [⟨.illegalState, 0⟩] }

/-- Rule R121: only reset leaves `LIFE = Closed`; until then no step performs a primitive or moves a line register. -/
def Obligations.ClosedIsLeftOnlyByReset : Prop :=
  ∀ s t : State, Inv s → s.life = .closed → s.rst = false → step s = .next t →
    t.life = .closed ∧ t.trace = s.trace ∧ t.clk = .released ∧ t.seln = .released ∧ t.dout = s.dout ∧ t.cfg = s.cfg

/-- Rules R27, R28, R81, R121: outside an open Connection the block drives no line and owns no data-in line. -/
def Obligations.NothingIsDrivenOutsideAnOpenConnection : Prop :=
  ∀ s : State, Inv s → s.life ≠ .opened →
    (∀ l, (s.lineReg l).enable = false ∧ (s.lineReg l).level = none) ∧ s.dinOwned = false ∧ s.dlyReq = false

/-! ### SELECT and RELEASE -/

/-- Rule R132: SELECT. -/
def Obligations.SelectDrivesSelectLow : Prop :=
  ∀ s : State,
    opField (encodeWord .select) = 0x2 ∧
    (s.life = .opened → s.sel = .deselected →
      exec .select s = .next
        { s with
          sel := .selected
          seln := .driven false
          trace := s.trace ++ [.write .sel false]
          busy := false
          phase := .idle
          responses := s.responses ++ [⟨.ok, 0⟩] }) ∧
    (s.life ≠ .opened ∨ s.sel = .selected →
      exec .select s = .next
        { s with busy := false, phase := .idle, responses := s.responses ++ [⟨.illegalState, 0⟩] })

/-- Rule R136: RELEASE. -/
def Obligations.ReleaseDrivesSelectHigh : Prop :=
  ∀ s : State,
    opField (encodeWord .release) = 0x3 ∧
    (s.life = .opened → s.sel = .selected →
      exec .release s = .next
        { s with
          sel := .deselected
          seln := .driven true
          trace := s.trace ++ [.write .sel true]
          busy := false
          phase := .idle
          responses := s.responses ++ [⟨.ok, 0⟩] }) ∧
    (s.life ≠ .opened ∨ s.sel = .deselected →
      exec .release s = .next
        { s with busy := false, phase := .idle, responses := s.responses ++ [⟨.illegalState, 0⟩] })

/-- The writes of the select line among events. -/
def selectWrites (events : List Event) : List Event :=
  events.filter fun e => decide (e = .write .sel false ∨ e = .write .sel true)

/-- Rule R131: the initial state, and the table of the slave-select state machine, row by row: `SEL` after, the writes of
the select line, the response. The table applies while `LIFE = Open`, and to OPEN while `LIFE = Unopened`. -/
def Obligations.SelectStateMachineFollowsItsTable : Prop :=
  State.reset.sel = .deselected ∧ ∀ (i : Instr) (s t : State), exec i s = .next t →
    (s.life = .opened → s.sel = .deselected → i = .select →
      t.sel = .selected ∧ t.trace = s.trace ++ [.write .sel false] ∧ t.responses = s.responses ++ [⟨.ok, 0⟩]) ∧
    (s.life = .opened → s.sel = .selected → i = .release →
      t.sel = .deselected ∧ t.trace = s.trace ++ [.write .sel true] ∧ t.responses = s.responses ++ [⟨.ok, 0⟩]) ∧
    (s.life = .opened → s.sel = .selected → i = .select →
      t.sel = .selected ∧ t.trace = s.trace ∧ t.responses = s.responses ++ [⟨.illegalState, 0⟩]) ∧
    (s.life = .opened → s.sel = .deselected → i = .release →
      t.sel = .deselected ∧ t.trace = s.trace ∧ t.responses = s.responses ++ [⟨.illegalState, 0⟩]) ∧
    (∀ order hasDout hasDin, s.life = .unopened → i = .openConn order hasDout hasDin →
      t.sel = .deselected ∧ ∃ events, t.trace = s.trace ++ events ∧ selectWrites events = [.write .sel true] ∧
        t.responses = s.responses ++ [⟨.ok, 0⟩]) ∧
    (s.life = .opened → i ≠ .select → i ≠ .release →
      t.sel = s.sel ∧ ∃ events, t.trace = s.trace ++ events ∧ selectWrites events = [])

/-- Rule R140: `SEL` gates nothing but SELECT and RELEASE. For SYNC, WRBIT, RDBIT, RDN and the wide writes, the select state
and the level of the select line make no difference to anything else and come through unchanged, whether the command succeeds
or fails; CLOSE and OPEN do the same whatever they are. -/
def Obligations.SelectStateGatesNoTransfer : Prop :=
  ∀ (s : State) (x : Sel) (r : LineReg),
    (∀ (i : Instr) (t : State),
      (i = .sync ∨ (∃ b, i = .wrbit b) ∨ i = .rdbit ∨ (∃ n, i = .rdn n) ∨ (∃ v n, i = .wr8 v n) ∨
        (∃ v n, i = .wr16 v n) ∨ (∃ v n, i = .wr32 v n) ∨ ∃ v n, i = .wr64 v n) →
      exec i s = .next t →
      t.sel = s.sel ∧ t.seln = s.seln ∧ exec i { s with sel := x, seln := r } = .next { t with sel := x, seln := r }) ∧
    (∀ t, exec .closeConn s = .next t → exec .closeConn { s with sel := x } = .next { t with sel := x }) ∧
    (∀ order hasDout hasDin, s.life = .unopened →
      exec (.openConn order hasDout hasDin) { s with sel := x, seln := r } = exec (.openConn order hasDout hasDin) s)

/-- Rule R96: the guard. A host that selects an open, deselected Connection, issues any commands but RELEASE and CLOSE,
gives up at the first error, and releases, drives select low once and high once, last of all: select ends high, and the
Connection stays open. -/
def Obligations.GuardDeassertsSelectExactlyOnce : Prop :=
  ∀ (body : List Instr) (s : State), s.life = .opened → s.sel = .deselected →
    (∀ i ∈ body, i ≠ .release ∧ i ≠ .closeConn) →
    ∃ t, runGuarded body s = .next t ∧ t.life = .opened ∧ t.sel = .deselected ∧ t.seln = .driven true ∧
      ∃ events, t.trace = s.trace ++ .write .sel false :: events ++ [.write .sel true] ∧ selectWrites events = []

/-- Rule R96: the same of `WITHSEL { body }` written out, by a host that carries on after errors. -/
def Obligations.WithSelDeassertsSelectExactlyOnce : Prop :=
  ∀ (body : List Instr) (s : State), s.life = .opened → s.sel = .deselected →
    (∀ i ∈ body, i ≠ .release ∧ i ≠ .closeConn) →
    ∃ t, runCommands (withSel body) s = .next t ∧ t.life = .opened ∧ t.sel = .deselected ∧ t.seln = .driven true ∧
      ∃ events, t.trace = s.trace ++ .write .sel false :: events ++ [.write .sel true] ∧ selectWrites events = []

/-! ### The clock -/

/-- Rule R153: SYNC. -/
def Obligations.SyncPulsesTheClockOnce : Prop :=
  ∀ s : State,
    opField (encodeWord .sync) = 0x4 ∧
    (s.life = .opened →
      ∃ t, exec .sync s = .next t ∧ t.observable =
        ({ s with
          clk := .driven false
          trace := s.trace ++ [.write .clk true, .sleep, .write .clk false]
          delays := s.delays.drop 1
          busy := false
          phase := .idle
          responses := s.responses ++ [⟨.ok, 0⟩] } : State).observable) ∧
    (s.life ≠ .opened →
      exec .sync s = .next
        { s with busy := false, phase := .idle, responses := s.responses ++ [⟨.illegalState, 0⟩] })

/-- Rules R154, R155: every command run by an idle block keeps the shape of the pulses in the trace: each rise of the clock
is followed at once by one dwell and the fall, and there is no other dwell. -/
def Obligations.EveryStepKeepsThePulseShape : Prop :=
  ∀ s t : State, s.busy = false → pulsesShaped s.trace = true → step s = .next t → pulsesShaped t.trace = true

/-- Rule R276: a transfer of `n` bits that ends with OK takes at least `n` dwells: the least time of the trace grows by
exactly `n` times `DWELL`, whatever `DWELL` is. -/
def Obligations.TransferTakesNDwells : Prop :=
  ∀ (n : Nat) (s t : State) (i : Instr),
    (i = .rdn n ∨ (∃ v, i = .wr8 v n) ∨ (∃ v, i = .wr16 v n) ∨ (∃ v, i = .wr32 v n) ∨ ∃ v, i = .wr64 v n) →
    firstError i s = none → exec i s = .next t → leastTime t.trace = leastTime s.trace + n * Config.dwell

/-- Rule R57: how often a command that ends with OK performs each primitive, and that one that ends with an error performs
none. -/
def Obligations.PrimitiveCountsFollowTheTable : Prop :=
  ∀ (i : Instr) (s t : State), exec i s = .next t →
    ∃ events, t.trace = s.trace ++ events ∧
      (firstError i s = none → primitiveCounts events = primitiveTable i s.cfg) ∧
      (firstError i s ≠ none → events = [])

/-! ### Writes -/

/-- Rules R171, R172: WRBIT. -/
def Obligations.WrbitWritesOneBit : Prop :=
  ∀ (b : Bool) (s : State),
    opField (encodeWord (.wrbit b)) = 0x5 ∧
    (s.life = .opened → s.cfg.hasDout = true →
      ∃ t, exec (.wrbit b) s = .next t ∧ t.observable =
        ({ s with
          clk := .driven false
          dout := .driven b
          trace := s.trace ++ [.write .dout b, .write .clk true, .sleep, .write .clk false]
          delays := s.delays.drop 1
          busy := false
          phase := .idle
          responses := s.responses ++ [⟨.ok, 0⟩] } : State).observable) ∧
    (s.life ≠ .opened →
      exec (.wrbit b) s = .next
        { s with busy := false, phase := .idle, responses := s.responses ++ [⟨.illegalState, 0⟩] }) ∧
    (s.life = .opened → s.cfg.hasDout = false →
      exec (.wrbit b) s = .next
        { s with busy := false, phase := .idle, responses := s.responses ++ [⟨.unsupportedOperation, 0⟩] })

/-- What a wide write of `n` bits of `v` does when it is accepted, in closed form: the bits `s_0 … s_{n-1}` of rule R179,
four events each, and `DOUT` at the last of them. -/
def WritesInClosedForm {width : Nat} (i : Instr) (v : BitVec width) (n : Nat) (s : State) : Prop :=
  ∃ (t : State) (bits : List Bool), exec i s = .next t ∧ bits.length = n ∧
    (∀ k, k < n → bits.getD k false =
      match s.cfg.order with
      | .mostSignificantFirst => v.getLsbD k
      | .leastSignificantFirst => v.getLsbD (n - 1 - k)) ∧
    t.observable =
      ({ s with
        clk := if n = 0 then s.clk else .driven false
        dout := if n = 0 then s.dout else
          match s.cfg.order with
          | .mostSignificantFirst => .driven (v.getLsbD (n - 1))
          | .leastSignificantFirst => .driven (v.getLsbD 0)
        trace := s.trace ++ bits.flatMap fun b => [.write .dout b, .write .clk true, .sleep, .write .clk false]
        delays := s.delays.drop n
        busy := false
        phase := .idle
        responses := s.responses ++ [⟨.ok, 0⟩] } : State).observable

/-- Rules R179, R183 to R186: the wide writes in closed form, for every accepted count, zero included (rule R181 a, b). -/
def Obligations.WideWritesSendTheirBits : Prop :=
  ∀ (n : Nat) (s : State), s.life = .opened → (n = 0 ∨ s.cfg.hasDout = true) →
    (∀ v : BitVec 8, n ≤ 8 → WritesInClosedForm (.wr8 v n) v n s) ∧
    (∀ v : BitVec 16, n ≤ 16 → WritesInClosedForm (.wr16 v n) v n s) ∧
    (∀ v : BitVec 32, n ≤ 32 → WritesInClosedForm (.wr32 v n) v n s) ∧
    (∀ v : BitVec 64, n ≤ 64 → WritesInClosedForm (.wr64 v n) v n s)

/-- How a wide write of `n` bits through an entry point of width `width` fails, changing nothing (rules R181 c, d,
R183). -/
def FailsAsAWrite (i : Instr) (width n : Nat) (s : State) : Prop :=
  (s.life ≠ .opened →
    exec i s = .next { s with busy := false, phase := .idle, responses := s.responses ++ [⟨.illegalState, 0⟩] }) ∧
  (s.life = .opened → width < n →
    exec i s = .next { s with busy := false, phase := .idle, responses := s.responses ++ [⟨.invalidArgument, 0⟩] }) ∧
  (s.life = .opened → 1 ≤ n → n ≤ width → s.cfg.hasDout = false →
    exec i s =
      .next { s with busy := false, phase := .idle, responses := s.responses ++ [⟨.unsupportedOperation, 0⟩] })

/-- Rules R181, R182, R183 to R186: when a wide write fails, with what, and that nothing has happened. -/
def Obligations.WideWritesFailWithoutEffect : Prop :=
  ∀ (n : Nat) (s : State),
    (∀ v, FailsAsAWrite (.wr8 v n) 8 n s) ∧ (∀ v, FailsAsAWrite (.wr16 v n) 16 n s) ∧
    (∀ v, FailsAsAWrite (.wr32 v n) 32 n s) ∧ (∀ v, FailsAsAWrite (.wr64 v n) 64 n s)

/-- Rule R63: what travels depends only on the order, `n` and the low `n` bits of the value: the entry point makes no
difference, and neither do the bits at `n` and above. -/
def Obligations.OnlyTheLowBitsTravel : Prop :=
  ∀ (n : Nat) (s : State),
    (∀ v : BitVec 8, n ≤ 8 → exec (.wr8 v n) s = exec (.wr64 (v.setWidth 64) n) s) ∧
    (∀ v : BitVec 16, n ≤ 16 → exec (.wr16 v n) s = exec (.wr64 (v.setWidth 64) n) s) ∧
    (∀ v : BitVec 32, n ≤ 32 → exec (.wr32 v n) s = exec (.wr64 (v.setWidth 64) n) s) ∧
    (∀ v v' : BitVec 64, n ≤ 64 → (∀ k, k < n → v.getLsbD k = v'.getLsbD k) →
      ∃ t t', exec (.wr64 v n) s = .next t ∧ exec (.wr64 v' n) s = .next t' ∧ t.observable = t'.observable)

/-- What two runs of one write under the two orders append: the same pulses, the bits mirrored. -/
def MirrorsTheBits (i : Instr) (s : State) : Prop :=
  ∃ (bits : List Bool) (t u : State),
    exec i { s with cfg := { s.cfg with order := .mostSignificantFirst } } = .next t ∧
    exec i { s with cfg := { s.cfg with order := .leastSignificantFirst } } = .next u ∧
    t.trace = s.trace ++ bits.flatMap (fun b => [.write .dout b, .write .clk true, .sleep, .write .clk false]) ∧
    u.trace = s.trace ++ bits.reverse.flatMap (fun b => [.write .dout b, .write .clk true, .sleep, .write .clk false])

/-- Rule R187: the two bit orders put mirror-image sequences on the wire. -/
def Obligations.BitOrdersMirrorEachOther : Prop :=
  ∀ (n : Nat) (s : State), s.life = .opened → s.cfg.hasDout = true →
    (∀ v, n ≤ 8 → MirrorsTheBits (.wr8 v n) s) ∧ (∀ v, n ≤ 16 → MirrorsTheBits (.wr16 v n) s) ∧
    (∀ v, n ≤ 32 → MirrorsTheBits (.wr32 v n) s) ∧ (∀ v, n ≤ 64 → MirrorsTheBits (.wr64 v n) s)

/-- A wide write compared with the WRBIT commands of its wire bits: the same but for the responses, one against `n`. -/
def SameAsItsBits {width : Nat} (i : Instr) (v : BitVec width) (n : Nat) (s : State) : Prop :=
  ∃ t u : State, exec i s = .next t ∧
    runCommands ((wireBits v n s.cfg.order).map .wrbit) { s with busy := false, phase := .idle } = .next u ∧
    { t with responses := [] }.observable = { u with responses := [] }.observable ∧
    t.responses = s.responses ++ [⟨.ok, 0⟩] ∧ u.responses = s.responses ++ List.replicate n ⟨.ok, 0⟩

/-- Rule R180: a wide write is the same as its bits written one at a time. -/
def Obligations.WideWriteIsItsBitsOneAtATime : Prop :=
  ∀ (n : Nat) (s : State), s.life = .opened → s.cfg.hasDout = true →
    (∀ v : BitVec 8, n ≤ 8 → SameAsItsBits (.wr8 v n) v n s) ∧
    (∀ v : BitVec 16, n ≤ 16 → SameAsItsBits (.wr16 v n) v n s) ∧
    (∀ v : BitVec 32, n ≤ 32 → SameAsItsBits (.wr32 v n) v n s) ∧
    (∀ v : BitVec 64, n ≤ 64 → SameAsItsBits (.wr64 v n) v n s)

/-! ### Reads -/

/-- Rules R201, R202: RDBIT, for whatever the peripheral answers. -/
def Obligations.RdbitReadsOneBit : Prop :=
  ∀ s : State,
    opField (encodeWord .rdbit) = 0x6 ∧
    (s.life = .opened → s.cfg.hasDin = true →
      ∃ t, exec .rdbit s = .next t ∧ t.observable =
        ({ s with
          clk := .driven false
          din := s.din.next.2
          trace := s.trace ++ [.write .clk true, .sleep, .write .clk false, .read s.din.next.1]
          delays := s.delays.drop 1
          busy := false
          phase := .idle
          responses := s.responses ++ [⟨.ok, if s.din.next.1 then 1 else 0⟩] } : State).observable) ∧
    (s.life ≠ .opened →
      exec .rdbit s = .next
        { s with busy := false, phase := .idle, responses := s.responses ++ [⟨.illegalState, 0⟩] }) ∧
    (s.life = .opened → s.cfg.hasDin = false →
      exec .rdbit s = .next
        { s with busy := false, phase := .idle, responses := s.responses ++ [⟨.unsupportedOperation, 0⟩] })

/-- Rules R207, R208: RDN in closed form, for whatever `n` samples the peripheral answers: `4n` events, and sample `k` in
bit `k` or in bit `n - 1 - k` of the result, the bits at `n` and above zero. Zero bits need no data-in line (rule
R210 a). -/
def Obligations.RdnAssemblesItsSamples : Prop :=
  ∀ (n : Nat) (s : State), s.life = .opened → n ≤ 64 → (n = 0 ∨ s.cfg.hasDin = true) →
    ∃ (t : State) (data : Value), exec (.rdn n) s = .next t ∧
      (∀ k, k < n → (s.din.take n).getD k false =
        match s.cfg.order with
        | .mostSignificantFirst => data.getLsbD k
        | .leastSignificantFirst => data.getLsbD (n - 1 - k)) ∧
      (∀ k, n ≤ k → data.getLsbD k = false) ∧
      t.observable =
        ({ s with
          clk := if n = 0 then s.clk else .driven false
          din := s.din.after n
          trace := s.trace ++
            (s.din.take n).flatMap fun b => [.write .clk true, .sleep, .write .clk false, .read b]
          delays := s.delays.drop n
          busy := false
          phase := .idle
          responses := s.responses ++ [⟨.ok, data⟩] } : State).observable

/-- Rules R207, R210 c, d, R211: when RDN fails, with what, and that nothing has happened. -/
def Obligations.RdnFailsWithoutEffect : Prop :=
  ∀ (n : Nat) (s : State),
    opField (encodeWord (.rdn n)) = 0x7 ∧
    (s.life ≠ .opened →
      exec (.rdn n) s = .next
        { s with busy := false, phase := .idle, responses := s.responses ++ [⟨.illegalState, 0⟩] }) ∧
    (s.life = .opened → 64 < n →
      exec (.rdn n) s = .next
        { s with busy := false, phase := .idle, responses := s.responses ++ [⟨.invalidArgument, 0⟩] }) ∧
    (s.life = .opened → 1 ≤ n → n ≤ 64 → s.cfg.hasDin = false →
      exec (.rdn n) s = .next
        { s with busy := false, phase := .idle, responses := s.responses ++ [⟨.unsupportedOperation, 0⟩] })

/-- Rule R209: a wide read is the same as its bits read one at a time: the same but for the responses, and its data is the
bits of the single responses placed by the index formula, with zeros above. -/
def Obligations.WideReadIsItsBitsOneAtATime : Prop :=
  ∀ (n : Nat) (s : State), s.life = .opened → s.cfg.hasDin = true → n ≤ 64 →
    ∃ (t u : State) (data : Value), exec (.rdn n) s = .next t ∧
      runCommands (List.replicate n .rdbit) { s with busy := false, phase := .idle } = .next u ∧
      { t with responses := [] }.observable = { u with responses := [] }.observable ∧
      t.responses = s.responses ++ [⟨.ok, data⟩] ∧
      (∀ k, n ≤ k → data.getLsbD k = false) ∧
      ∃ results : List Response, u.responses = s.responses ++ results ∧ results.length = n ∧
        ∀ k, k < n → results.getD k ⟨.illegalCommand, 0⟩ =
          ⟨.ok, if data.getLsbD (index k n s.cfg.order) then 1 else 0⟩

/-- Writing `n` bits of `v` and reading `n` bits back: through a peripheral that echoes the bits in the order it received
them, the value comes back; over a bare wire, where every sample is the last bit written, all ones or zero does. -/
def ReadsBack {width : Nat} (i : Instr) (v : BitVec width) (n : Nat) (s : State) : Prop :=
  (∀ rest, s.din.answers = wireBits v n s.cfg.order ++ rest →
    ∃ t, runCommands [i, .rdn n] s = .next t ∧ t.din.answers = rest ∧
      t.responses = s.responses ++ [⟨.ok, 0⟩, ⟨.ok, BitVec.ofNat 64 (v.toNat % 2 ^ n)⟩]) ∧
  (∀ rest last, (wireBits v n s.cfg.order).getLast? = some last → s.din.answers = List.replicate n last ++ rest →
    ∃ t, runCommands [i, .rdn n] s = .next t ∧ t.din.answers = rest ∧
      t.responses = s.responses ++ [⟨.ok, 0⟩, ⟨.ok, if last then BitVec.ofNat 64 (2 ^ n - 1) else 0⟩])

/-- Rule R212: read after write, for every value, every count and both orders. -/
def Obligations.ReadAfterWriteThroughAnEcho : Prop :=
  ∀ (n : Nat) (s : State), s.life = .opened → s.cfg.hasDout = true → s.cfg.hasDin = true →
    (∀ v : BitVec 8, n ≤ 8 → ReadsBack (.wr8 v n) v n s) ∧
    (∀ v : BitVec 16, n ≤ 16 → ReadsBack (.wr16 v n) v n s) ∧
    (∀ v : BitVec 32, n ≤ 32 → ReadsBack (.wr32 v n) v n s) ∧
    (∀ v : BitVec 64, n ≤ 64 → ReadsBack (.wr64 v n) v n s)

/-! ### All commands -/

/-- Rule R62: the bit order has no effect on the commands that move at most one bit. -/
def Obligations.BitOrderPlaysNoPartInOneBitCommands : Prop :=
  ∀ (i : Instr) (s t : State) (order : BitOrder),
    (i = .closeConn ∨ i = .select ∨ i = .release ∨ i = .sync ∨ (∃ b, i = .wrbit b) ∨ i = .rdbit) →
    exec i s = .next t →
    exec i { s with cfg := { s.cfg with order := order } } = .next { t with cfg := { t.cfg with order := order } }

/-- Rule R24: `CFG` is written by an accepted OPEN and by nothing else. -/
def Obligations.ConfigurationIsImmutable : Prop :=
  ∀ (i : Instr) (s t : State), exec i s = .next t →
    t.cfg = s.cfg ∨ (s.life = .unopened ∧ ∃ order hasDout hasDin,
      i = .openConn order hasDout hasDin ∧ t.cfg = ⟨order, hasDout, hasDin⟩)

/-- The frame of the transfers and SYNC, however they end: lifecycle, configuration, selection, select line, the host's
words and reset are unchanged; SYNC and reads leave the data-out line, SYNC and writes leave the peripheral; a clock that
was low is low again (rules R153, R204, R24, R131, R154). -/
def Obligations.TransfersLeaveTheRestAlone : Prop :=
  ∀ (i : Instr) (s t : State),
    (i = .sync ∨ (∃ b, i = .wrbit b) ∨ i = .rdbit ∨ (∃ n, i = .rdn n) ∨ (∃ v n, i = .wr8 v n) ∨
      (∃ v n, i = .wr16 v n) ∨ (∃ v n, i = .wr32 v n) ∨ ∃ v n, i = .wr64 v n) →
    exec i s = .next t →
    t.life = s.life ∧ t.cfg = s.cfg ∧ t.sel = s.sel ∧ t.seln = s.seln ∧ t.cmds = s.cmds ∧ t.rst = s.rst ∧
    t.busy = false ∧ t.phase = .idle ∧
    (s.clk = .driven false → t.clk = .driven false) ∧
    ((i = .sync ∨ i = .rdbit ∨ ∃ n, i = .rdn n) → t.dout = s.dout) ∧
    ((i ≠ .rdbit ∧ ∀ n, i ≠ .rdn n) → t.din = s.din)

/-- Rules R90, R235: a presented word ends with exactly one response, and the first check that fails decides its status:
the op code, then `LIFE`, then `SEL`, then the count, then the data line. -/
def Obligations.FirstFailingCheckDecidesTheResponse : Prop :=
  ∀ (s : State) (w : CmdWord) (rest : List CmdWord), s.rst = false → s.busy = false → s.cmds = w :: rest →
    ∃ (t : State) (data : Value), step s = .next t ∧ t.cmds = rest ∧ t.busy = false ∧
      t.responses = s.responses ++
        [⟨match decode w with
          | .error _ => .illegalCommand
          | .ok i => (firstError i s).getD .ok, data⟩]

/-- Rules R236, R238: a command that ends with an error has performed no primitive and changed no register but `BUSY` and
`PHASE`; its response has `data = 0`. -/
def Obligations.FailedCommandHasNoEffect : Prop :=
  ∀ (i : Instr) (s t : State) (r : Response), exec i s = .next t → t.responses = s.responses ++ [r] → r.status ≠ .ok →
    t = { s with busy := false, phase := .idle, responses := s.responses ++ [⟨r.status, 0⟩] }

/-- Rules R233, R250: a program that reaches an error, IllegalState among them, or closes the Connection while a selection is
live, is at fault, and stays so until reset, whatever it issues next; nothing else puts it at fault. A reserved op code puts it
at fault too. That the fault is a predicate over the state, and no stop, is log entry 2. -/
def Obligations.BrokenDutiesPutTheProgramAtFault : Prop :=
  (∀ (i : Instr) (s t : State), exec i s = .next t →
    (firstError i s ≠ none → t.programAtFault = true) ∧
    (i = .closeConn → s.sel = .selected → t.programAtFault = true) ∧
    (s.programAtFault = true → t.programAtFault = true) ∧
    (s.programAtFault = false → firstError i s = none → (i = .closeConn → s.sel = .deselected) →
      t.programAtFault = false)) ∧
  ∀ (s : State) (w : CmdWord) (rest : List CmdWord), s.rst = false → s.busy = false → s.cmds = w :: rest →
    0xC ≤ (opField w).toNat → ∃ t, step s = .next t ∧ t.programAtFault = true

/-! ### The words -/

/-- Rules R80, R83, R85: every well-formed command has a word, and its word decodes to it, for every operand. -/
def Obligations.DecodeOfEncodeIsTheCommand : Prop :=
  ∀ i : Instr, i.WellFormed = true → ∃ w, encode i = some w ∧ decode w = .ok i

/-- Rules R80, R85, R87: whatever word decodes to a command, the command is well-formed, and its own word has the same bits
in the fields the command uses and zero elsewhere: no used bit is dropped and no other bit is looked at. -/
def Obligations.EncodeOfDecodeIsTheUsedBits : Prop :=
  ∀ (w : CmdWord) (i : Instr), decode w = .ok i →
    i.WellFormed = true ∧ encode i = some (w &&& usedBits i) ∧ decode (w &&& usedBits i) = .ok i

/-- Section 6 of `30_encoding.md`: the words written out there are the commands named there. -/
def Obligations.WorkedEncodingsDecode : Prop :=
  decode 0x00000000000000000060 = .ok (.openConn .mostSignificantFirst true true) ∧
  decode 0x00000000000000000070 = .ok (.openConn .leastSignificantFirst true true) ∧
  decode 0x00000000000000000050 = .ok (.openConn .leastSignificantFirst false true) ∧
  decode 0x00000000000000000001 = .ok .closeConn ∧
  decode 0x00000000000000000003 = .ok .release ∧
  decode 0x00000000000000000004 = .ok .sync ∧
  decode 0x00000000000000010005 = .ok (.wrbit true) ∧
  decode 0x00000000000000000A07 = .ok (.rdn 10) ∧
  decode 0x00000000DEADBEEF200A = .ok (.wr32 0xDEADBEEF 32) ∧
  decode 0x0123456789ABCDEF400B = .ok (.wr64 0x0123456789ABCDEF 64)

/-- Rule R83: every word is covered by at most one row of the opcode table, and a word that decodes is covered by the row
of its command's mnemonic. -/
def Obligations.OpcodeTableNamesWhatIsDecoded : Prop :=
  ∀ w : CmdWord,
    (opcodeTable.filter fun r => r.covers w).map OpcodeRow.mnemonic =
      match decode w with
      | .ok i => [i.mnemonic]
      | .error _ => []

/-- Rule R86: a reserved op code, in every value of `LIFE`: accepted, no primitive, no state, IllegalCommand. -/
def Obligations.ReservedOpEndsInIllegalCommand : Prop :=
  ∀ w : CmdWord, 0xC ≤ (opField w).toNat →
    decode w = .error (.reservedOp (opField w)) ∧
    ∀ (s : State) (rest : List CmdWord), s.rst = false → s.busy = false → s.cmds = w :: rest →
      step s = .next
        { s with
          cmds := rest, busy := false, phase := .idle, responses := s.responses ++ [⟨.illegalCommand, 0⟩] }

/-- Rules R90, R91: the response word has the status in its low four bits and the data above, and the host reads back the
response from it. -/
def Obligations.ResponseWordCarriesStatusAndData : Prop :=
  ∀ r : Response, r.word.extractLsb' 0 4 = r.status.code ∧ r.word.extractLsb' 4 64 = r.data ∧
    Response.ofWord r.word = some r

/-- Rule R95: lines of text and the words section 6 of `30_encoding.md` gives for them. -/
def Obligations.WorkedLinesAssemble : Prop :=
  assemble "OPEN lsf, din".toList = some 0x00000000000000000050 ∧
  assemble "CLOSE".toList = some 0x00000000000000000001 ∧
  assemble "WRBIT 1".toList = some 0x00000000000000010005 ∧
  assemble "RDN 10".toList = some 0x00000000000000000A07 ∧
  assemble "WR8 0xA3, 8".toList = some 0x00000000000000A30808 ∧
  assemble "WR8 0x1A3, 8".toList = none ∧
  assemble "RDN 256".toList = none

/-! ### Steps -/

/-- Rule R82: an idle block that is presented a word runs its command: `BUSY <- 1`, the word leaves the port, and the step
is the command's. -/
def Obligations.StepRunsTheDecodedCommand : Prop :=
  ∀ (s : State) (w : CmdWord) (rest : List CmdWord) (i : Instr),
    s.rst = false → s.busy = false → s.cmds = w :: rest → decode w = .ok i →
    step s = exec i { s with cmds := rest, busy := true }

/-- Rule R159: between commands the block does nothing. -/
def Obligations.IdleBlockDoesNothing : Prop :=
  ∀ s : State, s.rst = false → s.busy = false → s.cmds = [] → step s = .next s

/-- Rule R82: while a command runs, what the host presents is not accepted and has no effect. -/
def Obligations.BusyBlockAcceptsNoCommand : Prop :=
  ∀ (s t : State) (words : List CmdWord), s.rst = false → s.busy = true → step s = .next t →
    t.cmds = s.cmds ∧ step { s with cmds := words } = .next { t with cmds := words }

/-- "Next bit" of rule R156, after the primitive of the phase has led to `s`. -/
def NextBit (s t : State) : Prop :=
  (s.cnt.toNat + 1 < s.n.toNat →
    t = { s with cnt := s.cnt + 1, phase := if s.kind = .write then .wData else .pHigh }) ∧
  (s.cnt.toNat + 1 = s.n.toNat →
    t = { s with
      cnt := s.cnt + 1
      busy := false
      phase := .idle
      responses := s.responses ++ [⟨.ok, if s.kind = .read then s.acc else 0⟩] })

/-- Rule R156: the phase table. One step of a running command performs the one primitive of its phase and goes to the phase
the table names; `idx` is `index(CNT, N, CFG.order)`. At `P_DWELL` the primitive is `Sleep`, which returns when `dly_ack`
is 1 and until then performs nothing (rules R56, R81; log entry 25). -/
def Obligations.RunningCommandFollowsThePhaseTable : Prop :=
  ∀ s : State, s.rst = false → s.busy = true → s.cnt.toNat < s.n.toNat → s.n.toNat ≤ 64 →
    (s.phase = .wData → ∃ b, b = s.val.getLsbD (index s.cnt.toNat s.n.toNat s.cfg.order) ∧
      step s = .next { s with dout := .driven b, trace := s.trace ++ [.write .dout b], phase := .pHigh }) ∧
    (s.phase = .pHigh →
      step s = .next { s with clk := .driven true, trace := s.trace ++ [.write .clk true], phase := .pDwell }) ∧
    (s.phase = .pDwell → s.delays.headD 0 = 0 →
      step s = .next { s with trace := s.trace ++ [.sleep], delays := s.delays.tail, phase := .pLow }) ∧
    (s.phase = .pDwell → ∀ k rest, s.delays = (k + 1) :: rest → step s = .next { s with delays := k :: rest }) ∧
    (s.phase = .pLow → s.kind = .read →
      step s = .next { s with clk := .driven false, trace := s.trace ++ [.write .clk false], phase := .rSample }) ∧
    (s.phase = .pLow → s.kind ≠ .read → ∃ t, step s = .next t ∧
      NextBit { s with clk := .driven false, trace := s.trace ++ [.write .clk false] } t) ∧
    (s.phase = .rSample → ∃ t, step s = .next t ∧
      NextBit
        { s with
          din := s.din.next.2
          trace := s.trace ++ [.read s.din.next.1]
          acc := if s.din.next.1 then s.acc ||| (1#64 <<< index s.cnt.toNat s.n.toNat s.cfg.order) else s.acc } t)

/-- Rule R156: the row of the second table for each command that pulses the clock: its kind, its number of bits, and the
value it loads, none where the table says "unused". -/
def SequencerRow (i : Instr) (k : Kind) (n : Nat) (v : Option Value) : Prop :=
  (i = .sync ∧ k = .pulse ∧ n = 1 ∧ v = none) ∨
  (∃ b : Bool, i = .wrbit b ∧ k = .write ∧ n = 1 ∧ v = some (if b then 1 else 0)) ∨
  (∃ x, i = .wr8 x n ∧ k = .write ∧ v = some (x.setWidth 64)) ∨
  (∃ x, i = .wr16 x n ∧ k = .write ∧ v = some (x.setWidth 64)) ∨
  (∃ x, i = .wr32 x n ∧ k = .write ∧ v = some (x.setWidth 64)) ∨
  (∃ x, i = .wr64 x n ∧ k = .write ∧ v = some x) ∨
  (i = .rdbit ∧ k = .read ∧ n = 1 ∧ v = none) ∨
  (i = .rdn n ∧ k = .read ∧ v = none)

/-- Rule R156: a command that pulses the clock and has passed its checks loads `KIND`, `N` and `VAL`, sets `CNT` and `ACC`
to zero, and responds at once if there is no bit to move, or goes to the first phase of its kind; no event yet. -/
def Obligations.TransferBeginsOnTheSequencer : Prop :=
  ∀ (i : Instr) (k : Kind) (n : Nat) (v : Option Value) (s : State), SequencerRow i k n v → firstError i s = none →
    ∃ t, beginCommand i s = .next t ∧ t.kind = k ∧ t.n.toNat = n ∧ (∀ x, v = some x → t.val = x) ∧ t.cnt = 0 ∧
      t.acc = 0 ∧ t.trace = s.trace ∧ t.clk = s.clk ∧ t.dout = s.dout ∧ t.din = s.din ∧
      (n = 0 → t.busy = false ∧ t.phase = .idle ∧ t.responses = s.responses ++ [⟨.ok, 0⟩]) ∧
      (n ≠ 0 → t.busy = s.busy ∧ t.phase = (if k = .write then .wData else .pHigh) ∧ t.responses = s.responses)

/-- Rule R157: the sequencer and the pseudocode agree. For every command, state and peripheral, beginning the command on
the sequencer and stepping it to its response gives the state that the command's pseudocode gives: the same events in the
same order, the same response, the same registers. That the datapath registers agree rests on log entry 9; the delay
primitive may hold off each `Sleep` for any number of steps (log entry 25). -/
def Obligations.SequencerRefinesThePseudocode : Prop :=
  ∀ (i : Instr) (s : State), s.busy = true →
    thenRun (beginCommand i s) (runPhases s.stepsToEnd) = exec i s ∧
    ∃ t, exec i s = .next t ∧ t.busy = false

/-- Rules R156, R157 at the command port: what the finer machine, which takes one phase a step, has come to when the
command it accepts has responded is what the machine does in one step. -/
def Obligations.PhaseStepsAddUpToOneStep : Prop :=
  ∀ s : State, s.rst = false → s.busy = false →
    thenRun (phaseStep s) (runPhases s.stepsToEnd) = step s

/-! ### Invariants -/

/-- The invariant holds at reset. -/
def Obligations.InvHoldsAtReset : Prop := Inv State.reset

/-- Every step keeps the invariant, whatever words and answers are given and wherever a reset lands. -/
def Obligations.EveryStepKeepsInv : Prop :=
  ∀ s t : State, Inv s → step s = .next t → Inv t

/-- Every phase of the finer machine keeps the invariant, in the middle of a transfer too. -/
def Obligations.EveryPhaseStepKeepsInv : Prop :=
  ∀ s t : State, Inv s → phaseStep s = .next t → Inv t

/-- Rules R158, R240: a block in a state that meets the invariant never stops: no step faults and none is refused. -/
def Obligations.InvStatesNeverStop : Prop :=
  ∀ s : State, Inv s → (∃ t, step s = .next t) ∧ ∃ t, phaseStep s = .next t

/-- The levels written to the data-out line, oldest first. -/
def doutWrites (trace : List Event) : List Bool :=
  trace.filterMap fun e => match e with
    | .write .dout b => some b
    | .write .clk _ => none
    | .write .sel _ => none
    | .read _ => none
    | .sleep => none
    | .rel _ => none

/-- Rule R33: the state at rest, after any number of steps of any program from reset, with any peripheral: whenever the
Connection is open, the clock is low, select is high exactly when deselected, and data-out is at the last level written to
it if present and undriven if not. -/
def Obligations.StateAtRestOfEveryProgram : Prop :=
  ∀ (words : List CmdWord) (peripheral : Oracle) (k : Nat) (t : State),
    Sys2Proof.core.run k { State.reset with cmds := words, din := peripheral } = .next t →
    t.busy = false ∧
    (t.life = .opened →
      t.clk = .driven false ∧
      (t.sel = .deselected → t.seln = .driven true) ∧ (t.sel = .selected → t.seln = .driven false) ∧
      (t.cfg.hasDout = true → ∃ b, (doutWrites t.trace).getLast? = some b ∧ t.dout = .driven b) ∧
      (t.cfg.hasDout = false → t.dout = .undriven ∧ doutWrites t.trace = []))

/-- Rule R253: a program of any words runs to its end, one response for each word, one step each. -/
def Obligations.EveryProgramRunsToItsEnd : Prop :=
  ∀ (words : List CmdWord) (peripheral : Oracle),
    ∃ t, Sys2Proof.core.run words.length { State.reset with cmds := words, din := peripheral } = .next t ∧
      t.atEndOfRun = true ∧ t.responses.length = words.length
end

