-- ==== Sys2Proof/Laws/Encoding.lean ====
section
/-! SUPPORT. The fields of a word put together are the fields it was put together from. -/

namespace Sys2Proof

/-- The bits of a packed word, field by field. -/
theorem getLsbD_packWord (op : BitVec 4) (o d r : Bool) (n : BitVec 8) (v : Value) (i : Nat) :
    (packWord op o d r n v).getLsbD i =
      if i < 4 then op.getLsbD i
      else if i = 4 then o
      else if i = 5 then d
      else if i = 6 then r
      else if i = 7 then false
      else if i < 16 then n.getLsbD (i - 8)
      else v.getLsbD (i - 16) := by
  unfold packWord
  simp only [BitVec.getLsbD_append, BitVec.getLsbD_ofBool]
  split
  · rfl
  · rcases Nat.lt_or_ge i 8 with h | h
    · have : i = 4 ∨ i = 5 ∨ i = 6 ∨ i = 7 := by omega
      rcases this with rfl | rfl | rfl | rfl <;> simp
    · have h1 : ¬ (i - 4 < 1) := by omega
      have h2 : ¬ (i - 4 - 1 < 1) := by omega
      have h3 : ¬ (i - 4 - 1 - 1 < 1) := by omega
      have h4 : ¬ (i - 4 - 1 - 1 - 1 < 1) := by omega
      have e4 : i ≠ 4 := by omega
      have e5 : i ≠ 5 := by omega
      have e6 : i ≠ 6 := by omega
      have e7 : i ≠ 7 := by omega
      have e8 : i - 4 - 1 - 1 - 1 - 1 = i - 8 := by omega
      have e16 : i - 8 - 8 = i - 16 := by omega
      have e9 : (i - 8 < 8) = (i < 16) := by apply propext; omega
      simp only [h1, h2, h3, h4, e4, e5, e6, e7, e8, e9, e16, ↓reduceIte]

@[simp] theorem opField_packWord (op : BitVec 4) (o d r : Bool) (n : BitVec 8) (v : Value) :
    opField (packWord op o d r n v) = op := by
  apply BitVec.eq_of_getLsbD_eq
  intro i hi
  simp [opField, getLsbD_packWord, hi]

@[simp] theorem orderField_packWord (op : BitVec 4) (o : BitOrder) (d r : Bool) (n : BitVec 8) (v : Value) :
    orderField (packWord op o.code d r n v) = o := by
  cases o <;> simp only [orderField, getLsbD_packWord, BitOrder.code] <;> rfl

@[simp] theorem hasDoutField_packWord (op : BitVec 4) (o d r : Bool) (n : BitVec 8) (v : Value) :
    hasDoutField (packWord op o d r n v) = d := by
  simp only [hasDoutField, getLsbD_packWord]
  rfl

@[simp] theorem hasDinField_packWord (op : BitVec 4) (o d r : Bool) (n : BitVec 8) (v : Value) :
    hasDinField (packWord op o d r n v) = r := by
  simp only [hasDinField, getLsbD_packWord]
  rfl

@[simp] theorem countField_packWord (op : BitVec 4) (o d r : Bool) (n : BitVec 8) (v : Value) :
    countField (packWord op o d r n v) = n.toNat := by
  unfold countField
  congr 1
  apply BitVec.eq_of_getLsbD_eq
  intro i hi
  simp only [BitVec.getLsbD_extractLsb', getLsbD_packWord, hi, decide_true, Bool.true_and]
  have h1 : ¬ (8 + i < 4) := by omega
  have h2 : 8 + i < 16 := by omega
  have h3 : 8 + i ≠ 4 ∧ 8 + i ≠ 5 ∧ 8 + i ≠ 6 ∧ 8 + i ≠ 7 := by omega
  simp [h1, h2, h3]

@[simp] theorem bitField_packWord (op : BitVec 4) (o d r : Bool) (n : BitVec 8) (v : Value) :
    bitField (packWord op o d r n v) = v.getLsbD 0 := by
  simp only [bitField, getLsbD_packWord]
  rfl

@[simp] theorem valueField_packWord (width : Nat) (op : BitVec 4) (o d r : Bool) (n : BitVec 8)
    (v : Value) : valueField width (packWord op o d r n v) = v.setWidth width := by
  apply BitVec.eq_of_getLsbD_eq
  intro i hi
  simp only [valueField, BitVec.getLsbD_extractLsb', getLsbD_packWord, hi, decide_true, Bool.true_and,
    BitVec.getLsbD_setWidth]
  have h1 : ¬ (16 + i < 4) := by omega
  have h2 : ¬ (16 + i < 16) := by omega
  have h3 : 16 + i ≠ 4 ∧ 16 + i ≠ 5 ∧ 16 + i ≠ 6 ∧ 16 + i ≠ 7 := by omega
  simp [h1, h2, h3]

/-- A count that fits survives its field. -/
theorem toNat_ofNat_count {n : Nat} (h : countFits n = true) : (BitVec.ofNat 8 n).toNat = n := by
  simp only [countFits, decide_eq_true_eq] at h
  simp only [BitVec.toNat_ofNat]
  exact Nat.mod_eq_of_lt h

end Sys2Proof
end

