-- ==== Sys2Proof/Laws/Operands.lean ====
section
/-! SUPPORT. The operand arithmetic: bits, indices, the wire sequence and the assembled value. -/

namespace Sys2Proof.Machine

/-- The pseudocode's `(v >> idx) & 1` is bit `idx` of `v`. -/
theorem bitAt_eq_getLsbD {width : Nat} (h : 0 < width) (v : BitVec width) (idx : Nat) :
    bitAt v idx = v.getLsbD idx := by
  have one : ∀ i, (1#width).getLsbD i = decide (i = 0) := by
    intro i
    rw [BitVec.getLsbD_one]
    simp [h]
  unfold bitAt
  cases hb : v.getLsbD idx
  · rw [beq_eq_false_iff_ne]
    intro heq
    have := congrArg (BitVec.getLsbD · 0) heq
    simp [one, hb] at this
  · rw [beq_iff_eq]
    apply BitVec.eq_of_getLsbD_eq
    intro i hi
    by_cases h0 : i = 0
    · simp [h0, one, hb]
    · simp [one, h0]

/-- The index never reaches `n` (rule R60). -/
theorem index_lt {i n : Nat} (order : BitOrder) (h : i < n) : index i n order < n := by
  cases order <;> simp only [index] <;> omega

/-- No two pulses carry the same bit (rule R206). -/
theorem index_injective {i j n : Nat} (order : BitOrder) (hi : i < n) (hj : j < n)
    (h : index i n order = index j n order) : i = j := by
  cases order <;> simp only [index] at h <;> omega

/-- A one-bit transfer moves bit 0 under both orders (rule R156). -/
@[simp] theorem index_zero_one (order : BitOrder) : index 0 1 order = 0 := by cases order <;> rfl

/-- The wire sequence through the index formula. -/
theorem wireBits_eq {width : Nat} (v : BitVec width) (n : Nat) (order : BitOrder) :
    wireBits v n order = (List.range n).map fun i => v.getLsbD (index i n order) := by
  cases order <;> rfl

@[simp] theorem length_wireBits {width : Nat} (v : BitVec width) (n : Nat) (order : BitOrder) :
    (wireBits v n order).length = n := by simp [wireBits]

@[simp] theorem wireBits_zero {width : Nat} (v : BitVec width) (order : BitOrder) : wireBits v 0 order = [] := rfl

/-- A setting of one bit of the accumulator, bit by bit. -/
theorem getLsbD_setBit (acc : Value) (idx i : Nat) (h : idx < 64) :
    (setBit acc idx).getLsbD i = (acc.getLsbD i || decide (i = idx)) := by
  simp only [setBit, BitVec.getLsbD_or, BitVec.getLsbD_shiftLeft, BitVec.getLsbD_one]
  by_cases hi : i = idx
  · subst hi; simp [h]
  · have : ¬ (i - idx = 0 ∧ idx ≤ i) := by omega
    by_cases hle : idx ≤ i
    · have : i - idx ≠ 0 := by omega
      simp [hi, this]
    · have hlt : i < idx := by omega
      simp [hi, hlt]

/-! ### The peripheral -/

@[simp] theorem Oracle.length_take (o : Oracle) (n : Nat) : (o.take n).length = n := by
  induction n generalizing o with
  | zero => rfl
  | succ n ih => simp [Oracle.take, ih]

/-- Taking `n + 1` answers is taking one and then `n`. -/
theorem Oracle.take_succ (o : Oracle) (n : Nat) : o.take (n + 1) = o.next.1 :: o.next.2.take n := rfl

theorem Oracle.after_succ (o : Oracle) (n : Nat) : o.after (n + 1) = o.next.2.after n := rfl

/-- Where enough answers are listed, they are the answers. -/
theorem Oracle.take_of_answers (o : Oracle) (bits rest : List Bool) (h : o.answers = bits ++ rest) :
    o.take bits.length = bits := by
  induction bits generalizing o with
  | nil => rfl
  | cons b bits ih =>
    have h1 : o.next = (b, { o with answers := bits ++ rest }) := by simp [Oracle.next, h]
    simp only [List.length_cons, Oracle.take_succ, h1]
    rw [ih _ rfl]

end Sys2Proof.Machine
end

