-- ==== Sys2Proof/Laws/State.lean ====
section
/-! SUPPORT. One lemma per field per update of State, so that no later proof unfolds a record update. -/

namespace Sys2Proof.Machine

variable (s : State)

/-! ### lineWrite -/

@[simp] theorem State.lineWrite_life (l : OutLine) (b : Bool) : (s.lineWrite l b).life = s.life := by cases l <;> rfl
@[simp] theorem State.lineWrite_cfg (l : OutLine) (b : Bool) : (s.lineWrite l b).cfg = s.cfg := by cases l <;> rfl
@[simp] theorem State.lineWrite_sel (l : OutLine) (b : Bool) : (s.lineWrite l b).sel = s.sel := by cases l <;> rfl
@[simp] theorem State.lineWrite_clk (l : OutLine) (b : Bool) :
    (s.lineWrite l b).clk = if l = .clk then .driven b else s.clk := by cases l <;> rfl
@[simp] theorem State.lineWrite_seln (l : OutLine) (b : Bool) :
    (s.lineWrite l b).seln = if l = .sel then .driven b else s.seln := by cases l <;> rfl
@[simp] theorem State.lineWrite_dout (l : OutLine) (b : Bool) :
    (s.lineWrite l b).dout = if l = .dout then .driven b else s.dout := by cases l <;> rfl
@[simp] theorem State.lineWrite_busy (l : OutLine) (b : Bool) : (s.lineWrite l b).busy = s.busy := by cases l <;> rfl
@[simp] theorem State.lineWrite_phase (l : OutLine) (b : Bool) :
    (s.lineWrite l b).phase = s.phase := by cases l <;> rfl
@[simp] theorem State.lineWrite_kind (l : OutLine) (b : Bool) : (s.lineWrite l b).kind = s.kind := by cases l <;> rfl
@[simp] theorem State.lineWrite_n (l : OutLine) (b : Bool) : (s.lineWrite l b).n = s.n := by cases l <;> rfl
@[simp] theorem State.lineWrite_cnt (l : OutLine) (b : Bool) : (s.lineWrite l b).cnt = s.cnt := by cases l <;> rfl
@[simp] theorem State.lineWrite_val (l : OutLine) (b : Bool) : (s.lineWrite l b).val = s.val := by cases l <;> rfl
@[simp] theorem State.lineWrite_acc (l : OutLine) (b : Bool) : (s.lineWrite l b).acc = s.acc := by cases l <;> rfl
@[simp] theorem State.lineWrite_trace (l : OutLine) (b : Bool) :
    (s.lineWrite l b).trace = s.trace ++ [.write l b] := by cases l <;> rfl
@[simp] theorem State.lineWrite_responses (l : OutLine) (b : Bool) :
    (s.lineWrite l b).responses = s.responses := by cases l <;> rfl
@[simp] theorem State.lineWrite_cmds (l : OutLine) (b : Bool) : (s.lineWrite l b).cmds = s.cmds := by cases l <;> rfl
@[simp] theorem State.lineWrite_din (l : OutLine) (b : Bool) : (s.lineWrite l b).din = s.din := by cases l <;> rfl
@[simp] theorem State.lineWrite_draws (l : OutLine) (b : Bool) :
    (s.lineWrite l b).draws = s.draws := by cases l <;> rfl
@[simp] theorem State.lineWrite_delays (l : OutLine) (b : Bool) :
    (s.lineWrite l b).delays = s.delays := by cases l <;> rfl
@[simp] theorem State.lineWrite_rst (l : OutLine) (b : Bool) : (s.lineWrite l b).rst = s.rst := by cases l <;> rfl

/-! ### lineRelease -/

@[simp] theorem State.lineRelease_life (l : Line) : (s.lineRelease l).life = s.life := by cases l <;> rfl
@[simp] theorem State.lineRelease_cfg (l : Line) : (s.lineRelease l).cfg = s.cfg := by cases l <;> rfl
@[simp] theorem State.lineRelease_sel (l : Line) : (s.lineRelease l).sel = s.sel := by cases l <;> rfl
@[simp] theorem State.lineRelease_clk (l : Line) :
    (s.lineRelease l).clk = if l = .clk then .released else s.clk := by cases l <;> rfl
@[simp] theorem State.lineRelease_seln (l : Line) :
    (s.lineRelease l).seln = if l = .sel then .released else s.seln := by cases l <;> rfl
@[simp] theorem State.lineRelease_dout (l : Line) :
    (s.lineRelease l).dout = if l = .dout then .released else s.dout := by cases l <;> rfl
@[simp] theorem State.lineRelease_busy (l : Line) : (s.lineRelease l).busy = s.busy := by cases l <;> rfl
@[simp] theorem State.lineRelease_phase (l : Line) : (s.lineRelease l).phase = s.phase := by cases l <;> rfl
@[simp] theorem State.lineRelease_kind (l : Line) : (s.lineRelease l).kind = s.kind := by cases l <;> rfl
@[simp] theorem State.lineRelease_n (l : Line) : (s.lineRelease l).n = s.n := by cases l <;> rfl
@[simp] theorem State.lineRelease_cnt (l : Line) : (s.lineRelease l).cnt = s.cnt := by cases l <;> rfl
@[simp] theorem State.lineRelease_val (l : Line) : (s.lineRelease l).val = s.val := by cases l <;> rfl
@[simp] theorem State.lineRelease_acc (l : Line) : (s.lineRelease l).acc = s.acc := by cases l <;> rfl
@[simp] theorem State.lineRelease_trace (l : Line) :
    (s.lineRelease l).trace = s.trace ++ [.rel l] := by cases l <;> rfl
@[simp] theorem State.lineRelease_responses (l : Line) :
    (s.lineRelease l).responses = s.responses := by cases l <;> rfl
@[simp] theorem State.lineRelease_cmds (l : Line) : (s.lineRelease l).cmds = s.cmds := by cases l <;> rfl
@[simp] theorem State.lineRelease_din (l : Line) : (s.lineRelease l).din = s.din := by cases l <;> rfl
@[simp] theorem State.lineRelease_draws (l : Line) : (s.lineRelease l).draws = s.draws := by cases l <;> rfl
@[simp] theorem State.lineRelease_delays (l : Line) : (s.lineRelease l).delays = s.delays := by cases l <;> rfl
@[simp] theorem State.lineRelease_rst (l : Line) : (s.lineRelease l).rst = s.rst := by cases l <;> rfl

/-! ### lineRead -/

@[simp] theorem State.lineRead_life : (s.lineRead).life = s.life := rfl
@[simp] theorem State.lineRead_cfg : (s.lineRead).cfg = s.cfg := rfl
@[simp] theorem State.lineRead_sel : (s.lineRead).sel = s.sel := rfl
@[simp] theorem State.lineRead_clk : (s.lineRead).clk = s.clk := rfl
@[simp] theorem State.lineRead_seln : (s.lineRead).seln = s.seln := rfl
@[simp] theorem State.lineRead_dout : (s.lineRead).dout = s.dout := rfl
@[simp] theorem State.lineRead_busy : (s.lineRead).busy = s.busy := rfl
@[simp] theorem State.lineRead_phase : (s.lineRead).phase = s.phase := rfl
@[simp] theorem State.lineRead_kind : (s.lineRead).kind = s.kind := rfl
@[simp] theorem State.lineRead_n : (s.lineRead).n = s.n := rfl
@[simp] theorem State.lineRead_cnt : (s.lineRead).cnt = s.cnt := rfl
@[simp] theorem State.lineRead_val : (s.lineRead).val = s.val := rfl
@[simp] theorem State.lineRead_acc : (s.lineRead).acc = s.acc := rfl
@[simp] theorem State.lineRead_trace : (s.lineRead).trace = s.trace ++ [.read s.sample] := rfl
@[simp] theorem State.lineRead_responses : (s.lineRead).responses = s.responses := rfl
@[simp] theorem State.lineRead_cmds : (s.lineRead).cmds = s.cmds := rfl
@[simp] theorem State.lineRead_din : (s.lineRead).din = s.din.next.2 := rfl
@[simp] theorem State.lineRead_draws : (s.lineRead).draws = s.draws := rfl
@[simp] theorem State.lineRead_delays : (s.lineRead).delays = s.delays := rfl
@[simp] theorem State.lineRead_rst : (s.lineRead).rst = s.rst := rfl

/-! ### sleep -/

@[simp] theorem State.sleep_life : (s.sleep).life = s.life := rfl
@[simp] theorem State.sleep_cfg : (s.sleep).cfg = s.cfg := rfl
@[simp] theorem State.sleep_sel : (s.sleep).sel = s.sel := rfl
@[simp] theorem State.sleep_clk : (s.sleep).clk = s.clk := rfl
@[simp] theorem State.sleep_seln : (s.sleep).seln = s.seln := rfl
@[simp] theorem State.sleep_dout : (s.sleep).dout = s.dout := rfl
@[simp] theorem State.sleep_busy : (s.sleep).busy = s.busy := rfl
@[simp] theorem State.sleep_phase : (s.sleep).phase = s.phase := rfl
@[simp] theorem State.sleep_kind : (s.sleep).kind = s.kind := rfl
@[simp] theorem State.sleep_n : (s.sleep).n = s.n := rfl
@[simp] theorem State.sleep_cnt : (s.sleep).cnt = s.cnt := rfl
@[simp] theorem State.sleep_val : (s.sleep).val = s.val := rfl
@[simp] theorem State.sleep_acc : (s.sleep).acc = s.acc := rfl
@[simp] theorem State.sleep_trace : (s.sleep).trace = s.trace ++ [.sleep] := rfl
@[simp] theorem State.sleep_responses : (s.sleep).responses = s.responses := rfl
@[simp] theorem State.sleep_cmds : (s.sleep).cmds = s.cmds := rfl
@[simp] theorem State.sleep_din : (s.sleep).din = s.din := rfl
@[simp] theorem State.sleep_draws : (s.sleep).draws = s.draws := rfl
@[simp] theorem State.sleep_delays : (s.sleep).delays = s.delays.tail := rfl
@[simp] theorem State.sleep_rst : (s.sleep).rst = s.rst := rfl

/-! ### holdDelay -/

@[simp] theorem State.holdDelay_life : s.holdDelay.life = s.life := rfl
@[simp] theorem State.holdDelay_cfg : s.holdDelay.cfg = s.cfg := rfl
@[simp] theorem State.holdDelay_sel : s.holdDelay.sel = s.sel := rfl
@[simp] theorem State.holdDelay_clk : s.holdDelay.clk = s.clk := rfl
@[simp] theorem State.holdDelay_seln : s.holdDelay.seln = s.seln := rfl
@[simp] theorem State.holdDelay_dout : s.holdDelay.dout = s.dout := rfl
@[simp] theorem State.holdDelay_busy : s.holdDelay.busy = s.busy := rfl
@[simp] theorem State.holdDelay_phase : s.holdDelay.phase = s.phase := rfl
@[simp] theorem State.holdDelay_kind : s.holdDelay.kind = s.kind := rfl
@[simp] theorem State.holdDelay_n : s.holdDelay.n = s.n := rfl
@[simp] theorem State.holdDelay_cnt : s.holdDelay.cnt = s.cnt := rfl
@[simp] theorem State.holdDelay_val : s.holdDelay.val = s.val := rfl
@[simp] theorem State.holdDelay_acc : s.holdDelay.acc = s.acc := rfl
@[simp] theorem State.holdDelay_trace : s.holdDelay.trace = s.trace := rfl
@[simp] theorem State.holdDelay_responses : s.holdDelay.responses = s.responses := rfl
@[simp] theorem State.holdDelay_cmds : s.holdDelay.cmds = s.cmds := rfl
@[simp] theorem State.holdDelay_din : s.holdDelay.din = s.din := rfl
@[simp] theorem State.holdDelay_draws : s.holdDelay.draws = s.draws := rfl
@[simp] theorem State.holdDelay_rst : s.holdDelay.rst = s.rst := rfl

/-! ### pulse -/

@[simp] theorem State.pulse_life : (s.pulse).life = s.life := rfl
@[simp] theorem State.pulse_cfg : (s.pulse).cfg = s.cfg := rfl
@[simp] theorem State.pulse_sel : (s.pulse).sel = s.sel := rfl
@[simp] theorem State.pulse_clk : (s.pulse).clk = .driven false := rfl
@[simp] theorem State.pulse_seln : (s.pulse).seln = s.seln := rfl
@[simp] theorem State.pulse_dout : (s.pulse).dout = s.dout := rfl
@[simp] theorem State.pulse_busy : (s.pulse).busy = s.busy := rfl
@[simp] theorem State.pulse_phase : (s.pulse).phase = s.phase := rfl
@[simp] theorem State.pulse_kind : (s.pulse).kind = s.kind := rfl
@[simp] theorem State.pulse_n : (s.pulse).n = s.n := rfl
@[simp] theorem State.pulse_cnt : (s.pulse).cnt = s.cnt := rfl
@[simp] theorem State.pulse_val : (s.pulse).val = s.val := rfl
@[simp] theorem State.pulse_acc : (s.pulse).acc = s.acc := rfl
@[simp] theorem State.pulse_trace : (s.pulse).trace = s.trace ++ pulseEvents := by simp [State.pulse, pulseEvents]
@[simp] theorem State.pulse_responses : (s.pulse).responses = s.responses := rfl
@[simp] theorem State.pulse_cmds : (s.pulse).cmds = s.cmds := rfl
@[simp] theorem State.pulse_din : (s.pulse).din = s.din := rfl
@[simp] theorem State.pulse_draws : (s.pulse).draws = s.draws := rfl
@[simp] theorem State.pulse_delays : (s.pulse).delays = s.delays.tail := rfl
@[simp] theorem State.pulse_rst : (s.pulse).rst = s.rst := rfl

/-! ### setCfg -/

@[simp] theorem State.setCfg_life (c : Cfg) : (s.setCfg c).life = s.life := rfl
@[simp] theorem State.setCfg_cfg (c : Cfg) : (s.setCfg c).cfg = c := rfl
@[simp] theorem State.setCfg_sel (c : Cfg) : (s.setCfg c).sel = s.sel := rfl
@[simp] theorem State.setCfg_clk (c : Cfg) : (s.setCfg c).clk = s.clk := rfl
@[simp] theorem State.setCfg_seln (c : Cfg) : (s.setCfg c).seln = s.seln := rfl
@[simp] theorem State.setCfg_dout (c : Cfg) : (s.setCfg c).dout = s.dout := rfl
@[simp] theorem State.setCfg_busy (c : Cfg) : (s.setCfg c).busy = s.busy := rfl
@[simp] theorem State.setCfg_phase (c : Cfg) : (s.setCfg c).phase = s.phase := rfl
@[simp] theorem State.setCfg_kind (c : Cfg) : (s.setCfg c).kind = s.kind := rfl
@[simp] theorem State.setCfg_n (c : Cfg) : (s.setCfg c).n = s.n := rfl
@[simp] theorem State.setCfg_cnt (c : Cfg) : (s.setCfg c).cnt = s.cnt := rfl
@[simp] theorem State.setCfg_val (c : Cfg) : (s.setCfg c).val = s.val := rfl
@[simp] theorem State.setCfg_acc (c : Cfg) : (s.setCfg c).acc = s.acc := rfl
@[simp] theorem State.setCfg_trace (c : Cfg) : (s.setCfg c).trace = s.trace := rfl
@[simp] theorem State.setCfg_responses (c : Cfg) : (s.setCfg c).responses = s.responses := rfl
@[simp] theorem State.setCfg_cmds (c : Cfg) : (s.setCfg c).cmds = s.cmds := rfl
@[simp] theorem State.setCfg_din (c : Cfg) : (s.setCfg c).din = s.din := rfl
@[simp] theorem State.setCfg_draws (c : Cfg) : (s.setCfg c).draws = s.draws := rfl
@[simp] theorem State.setCfg_delays (c : Cfg) : (s.setCfg c).delays = s.delays := rfl
@[simp] theorem State.setCfg_rst (c : Cfg) : (s.setCfg c).rst = s.rst := rfl

/-! ### setSel -/

@[simp] theorem State.setSel_life (x : Sel) : (s.setSel x).life = s.life := rfl
@[simp] theorem State.setSel_cfg (x : Sel) : (s.setSel x).cfg = s.cfg := rfl
@[simp] theorem State.setSel_sel (x : Sel) : (s.setSel x).sel = x := rfl
@[simp] theorem State.setSel_clk (x : Sel) : (s.setSel x).clk = s.clk := rfl
@[simp] theorem State.setSel_seln (x : Sel) : (s.setSel x).seln = s.seln := rfl
@[simp] theorem State.setSel_dout (x : Sel) : (s.setSel x).dout = s.dout := rfl
@[simp] theorem State.setSel_busy (x : Sel) : (s.setSel x).busy = s.busy := rfl
@[simp] theorem State.setSel_phase (x : Sel) : (s.setSel x).phase = s.phase := rfl
@[simp] theorem State.setSel_kind (x : Sel) : (s.setSel x).kind = s.kind := rfl
@[simp] theorem State.setSel_n (x : Sel) : (s.setSel x).n = s.n := rfl
@[simp] theorem State.setSel_cnt (x : Sel) : (s.setSel x).cnt = s.cnt := rfl
@[simp] theorem State.setSel_val (x : Sel) : (s.setSel x).val = s.val := rfl
@[simp] theorem State.setSel_acc (x : Sel) : (s.setSel x).acc = s.acc := rfl
@[simp] theorem State.setSel_trace (x : Sel) : (s.setSel x).trace = s.trace := rfl
@[simp] theorem State.setSel_responses (x : Sel) : (s.setSel x).responses = s.responses := rfl
@[simp] theorem State.setSel_cmds (x : Sel) : (s.setSel x).cmds = s.cmds := rfl
@[simp] theorem State.setSel_din (x : Sel) : (s.setSel x).din = s.din := rfl
@[simp] theorem State.setSel_draws (x : Sel) : (s.setSel x).draws = s.draws := rfl
@[simp] theorem State.setSel_delays (x : Sel) : (s.setSel x).delays = s.delays := rfl
@[simp] theorem State.setSel_rst (x : Sel) : (s.setSel x).rst = s.rst := rfl

/-! ### setLife -/

@[simp] theorem State.setLife_life (x : Life) : (s.setLife x).life = x := rfl
@[simp] theorem State.setLife_cfg (x : Life) : (s.setLife x).cfg = s.cfg := rfl
@[simp] theorem State.setLife_sel (x : Life) : (s.setLife x).sel = s.sel := rfl
@[simp] theorem State.setLife_clk (x : Life) : (s.setLife x).clk = s.clk := rfl
@[simp] theorem State.setLife_seln (x : Life) : (s.setLife x).seln = s.seln := rfl
@[simp] theorem State.setLife_dout (x : Life) : (s.setLife x).dout = s.dout := rfl
@[simp] theorem State.setLife_busy (x : Life) : (s.setLife x).busy = s.busy := rfl
@[simp] theorem State.setLife_phase (x : Life) : (s.setLife x).phase = s.phase := rfl
@[simp] theorem State.setLife_kind (x : Life) : (s.setLife x).kind = s.kind := rfl
@[simp] theorem State.setLife_n (x : Life) : (s.setLife x).n = s.n := rfl
@[simp] theorem State.setLife_cnt (x : Life) : (s.setLife x).cnt = s.cnt := rfl
@[simp] theorem State.setLife_val (x : Life) : (s.setLife x).val = s.val := rfl
@[simp] theorem State.setLife_acc (x : Life) : (s.setLife x).acc = s.acc := rfl
@[simp] theorem State.setLife_trace (x : Life) : (s.setLife x).trace = s.trace := rfl
@[simp] theorem State.setLife_responses (x : Life) : (s.setLife x).responses = s.responses := rfl
@[simp] theorem State.setLife_cmds (x : Life) : (s.setLife x).cmds = s.cmds := rfl
@[simp] theorem State.setLife_din (x : Life) : (s.setLife x).din = s.din := rfl
@[simp] theorem State.setLife_draws (x : Life) : (s.setLife x).draws = s.draws := rfl
@[simp] theorem State.setLife_delays (x : Life) : (s.setLife x).delays = s.delays := rfl
@[simp] theorem State.setLife_rst (x : Life) : (s.setLife x).rst = s.rst := rfl

/-! ### setPhase -/

@[simp] theorem State.setPhase_life (p : Phase) : (s.setPhase p).life = s.life := rfl
@[simp] theorem State.setPhase_cfg (p : Phase) : (s.setPhase p).cfg = s.cfg := rfl
@[simp] theorem State.setPhase_sel (p : Phase) : (s.setPhase p).sel = s.sel := rfl
@[simp] theorem State.setPhase_clk (p : Phase) : (s.setPhase p).clk = s.clk := rfl
@[simp] theorem State.setPhase_seln (p : Phase) : (s.setPhase p).seln = s.seln := rfl
@[simp] theorem State.setPhase_dout (p : Phase) : (s.setPhase p).dout = s.dout := rfl
@[simp] theorem State.setPhase_busy (p : Phase) : (s.setPhase p).busy = s.busy := rfl
@[simp] theorem State.setPhase_phase (p : Phase) : (s.setPhase p).phase = p := rfl
@[simp] theorem State.setPhase_kind (p : Phase) : (s.setPhase p).kind = s.kind := rfl
@[simp] theorem State.setPhase_n (p : Phase) : (s.setPhase p).n = s.n := rfl
@[simp] theorem State.setPhase_cnt (p : Phase) : (s.setPhase p).cnt = s.cnt := rfl
@[simp] theorem State.setPhase_val (p : Phase) : (s.setPhase p).val = s.val := rfl
@[simp] theorem State.setPhase_acc (p : Phase) : (s.setPhase p).acc = s.acc := rfl
@[simp] theorem State.setPhase_trace (p : Phase) : (s.setPhase p).trace = s.trace := rfl
@[simp] theorem State.setPhase_responses (p : Phase) : (s.setPhase p).responses = s.responses := rfl
@[simp] theorem State.setPhase_cmds (p : Phase) : (s.setPhase p).cmds = s.cmds := rfl
@[simp] theorem State.setPhase_din (p : Phase) : (s.setPhase p).din = s.din := rfl
@[simp] theorem State.setPhase_draws (p : Phase) : (s.setPhase p).draws = s.draws := rfl
@[simp] theorem State.setPhase_delays (p : Phase) : (s.setPhase p).delays = s.delays := rfl
@[simp] theorem State.setPhase_rst (p : Phase) : (s.setPhase p).rst = s.rst := rfl

/-! ### accept -/

@[simp] theorem State.accept_life (rest : List CmdWord) : (s.accept rest).life = s.life := rfl
@[simp] theorem State.accept_cfg (rest : List CmdWord) : (s.accept rest).cfg = s.cfg := rfl
@[simp] theorem State.accept_sel (rest : List CmdWord) : (s.accept rest).sel = s.sel := rfl
@[simp] theorem State.accept_clk (rest : List CmdWord) : (s.accept rest).clk = s.clk := rfl
@[simp] theorem State.accept_seln (rest : List CmdWord) : (s.accept rest).seln = s.seln := rfl
@[simp] theorem State.accept_dout (rest : List CmdWord) : (s.accept rest).dout = s.dout := rfl
@[simp] theorem State.accept_busy (rest : List CmdWord) : (s.accept rest).busy = true := rfl
@[simp] theorem State.accept_phase (rest : List CmdWord) : (s.accept rest).phase = s.phase := rfl
@[simp] theorem State.accept_kind (rest : List CmdWord) : (s.accept rest).kind = s.kind := rfl
@[simp] theorem State.accept_n (rest : List CmdWord) : (s.accept rest).n = s.n := rfl
@[simp] theorem State.accept_cnt (rest : List CmdWord) : (s.accept rest).cnt = s.cnt := rfl
@[simp] theorem State.accept_val (rest : List CmdWord) : (s.accept rest).val = s.val := rfl
@[simp] theorem State.accept_acc (rest : List CmdWord) : (s.accept rest).acc = s.acc := rfl
@[simp] theorem State.accept_trace (rest : List CmdWord) : (s.accept rest).trace = s.trace := rfl
@[simp] theorem State.accept_responses (rest : List CmdWord) : (s.accept rest).responses = s.responses := rfl
@[simp] theorem State.accept_cmds (rest : List CmdWord) : (s.accept rest).cmds = rest := rfl
@[simp] theorem State.accept_din (rest : List CmdWord) : (s.accept rest).din = s.din := rfl
@[simp] theorem State.accept_draws (rest : List CmdWord) : (s.accept rest).draws = s.draws := rfl
@[simp] theorem State.accept_delays (rest : List CmdWord) : (s.accept rest).delays = s.delays := rfl
@[simp] theorem State.accept_rst (rest : List CmdWord) : (s.accept rest).rst = s.rst := rfl

/-! ### finish -/

@[simp] theorem State.finish_life (r : Response) : (s.finish r).life = s.life := rfl
@[simp] theorem State.finish_cfg (r : Response) : (s.finish r).cfg = s.cfg := rfl
@[simp] theorem State.finish_sel (r : Response) : (s.finish r).sel = s.sel := rfl
@[simp] theorem State.finish_clk (r : Response) : (s.finish r).clk = s.clk := rfl
@[simp] theorem State.finish_seln (r : Response) : (s.finish r).seln = s.seln := rfl
@[simp] theorem State.finish_dout (r : Response) : (s.finish r).dout = s.dout := rfl
@[simp] theorem State.finish_busy (r : Response) : (s.finish r).busy = false := rfl
@[simp] theorem State.finish_phase (r : Response) : (s.finish r).phase = .idle := rfl
@[simp] theorem State.finish_kind (r : Response) : (s.finish r).kind = s.kind := rfl
@[simp] theorem State.finish_n (r : Response) : (s.finish r).n = s.n := rfl
@[simp] theorem State.finish_cnt (r : Response) : (s.finish r).cnt = s.cnt := rfl
@[simp] theorem State.finish_val (r : Response) : (s.finish r).val = s.val := rfl
@[simp] theorem State.finish_acc (r : Response) : (s.finish r).acc = s.acc := rfl
@[simp] theorem State.finish_trace (r : Response) : (s.finish r).trace = s.trace := rfl
@[simp] theorem State.finish_responses (r : Response) : (s.finish r).responses = s.responses ++ [r] := rfl
@[simp] theorem State.finish_cmds (r : Response) : (s.finish r).cmds = s.cmds := rfl
@[simp] theorem State.finish_din (r : Response) : (s.finish r).din = s.din := rfl
@[simp] theorem State.finish_draws (r : Response) : (s.finish r).draws = s.draws := rfl
@[simp] theorem State.finish_delays (r : Response) : (s.finish r).delays = s.delays := rfl
@[simp] theorem State.finish_rst (r : Response) : (s.finish r).rst = s.rst := rfl

/-! ### datapath -/

@[simp] theorem State.datapath_life (k : Kind) (m : Nat) (v : Option Value) (c : Nat) (a : Value) :
    (s.datapath k m v c a).life = s.life := rfl
@[simp] theorem State.datapath_cfg (k : Kind) (m : Nat) (v : Option Value) (c : Nat) (a : Value) :
    (s.datapath k m v c a).cfg = s.cfg := rfl
@[simp] theorem State.datapath_sel (k : Kind) (m : Nat) (v : Option Value) (c : Nat) (a : Value) :
    (s.datapath k m v c a).sel = s.sel := rfl
@[simp] theorem State.datapath_clk (k : Kind) (m : Nat) (v : Option Value) (c : Nat) (a : Value) :
    (s.datapath k m v c a).clk = s.clk := rfl
@[simp] theorem State.datapath_seln (k : Kind) (m : Nat) (v : Option Value) (c : Nat) (a : Value) :
    (s.datapath k m v c a).seln = s.seln := rfl
@[simp] theorem State.datapath_dout (k : Kind) (m : Nat) (v : Option Value) (c : Nat) (a : Value) :
    (s.datapath k m v c a).dout = s.dout := rfl
@[simp] theorem State.datapath_busy (k : Kind) (m : Nat) (v : Option Value) (c : Nat) (a : Value) :
    (s.datapath k m v c a).busy = s.busy := rfl
@[simp] theorem State.datapath_phase (k : Kind) (m : Nat) (v : Option Value) (c : Nat) (a : Value) :
    (s.datapath k m v c a).phase = s.phase := rfl
@[simp] theorem State.datapath_kind (k : Kind) (m : Nat) (v : Option Value) (c : Nat) (a : Value) :
    (s.datapath k m v c a).kind = k := rfl
@[simp] theorem State.datapath_n (k : Kind) (m : Nat) (v : Option Value) (c : Nat) (a : Value) :
    (s.datapath k m v c a).n = BitVec.ofNat 8 m := rfl
@[simp] theorem State.datapath_cnt (k : Kind) (m : Nat) (v : Option Value) (c : Nat) (a : Value) :
    (s.datapath k m v c a).cnt = BitVec.ofNat 7 c := rfl
@[simp] theorem State.datapath_val (k : Kind) (m : Nat) (v : Option Value) (c : Nat) (a : Value) :
    (s.datapath k m v c a).val = s.loadedVal v := rfl
@[simp] theorem State.datapath_acc (k : Kind) (m : Nat) (v : Option Value) (c : Nat) (a : Value) :
    (s.datapath k m v c a).acc = a := rfl
@[simp] theorem State.datapath_trace (k : Kind) (m : Nat) (v : Option Value) (c : Nat) (a : Value) :
    (s.datapath k m v c a).trace = s.trace := rfl
@[simp] theorem State.datapath_responses (k : Kind) (m : Nat) (v : Option Value) (c : Nat) (a : Value) :
    (s.datapath k m v c a).responses = s.responses := rfl
@[simp] theorem State.datapath_cmds (k : Kind) (m : Nat) (v : Option Value) (c : Nat) (a : Value) :
    (s.datapath k m v c a).cmds = s.cmds := rfl
@[simp] theorem State.datapath_din (k : Kind) (m : Nat) (v : Option Value) (c : Nat) (a : Value) :
    (s.datapath k m v c a).din = s.din := rfl
@[simp] theorem State.datapath_draws (k : Kind) (m : Nat) (v : Option Value) (c : Nat) (a : Value) :
    (s.datapath k m v c a).draws = s.loadedDraws v := rfl
@[simp] theorem State.datapath_delays (k : Kind) (m : Nat) (v : Option Value) (c : Nat) (a : Value) :
    (s.datapath k m v c a).delays = s.delays := rfl
@[simp] theorem State.datapath_rst (k : Kind) (m : Nat) (v : Option Value) (c : Nat) (a : Value) :
    (s.datapath k m v c a).rst = s.rst := rfl

/-! ### accumulate -/

@[simp] theorem State.accumulate_life (b : Bool) : (s.accumulate b).life = s.life := rfl
@[simp] theorem State.accumulate_cfg (b : Bool) : (s.accumulate b).cfg = s.cfg := rfl
@[simp] theorem State.accumulate_sel (b : Bool) : (s.accumulate b).sel = s.sel := rfl
@[simp] theorem State.accumulate_clk (b : Bool) : (s.accumulate b).clk = s.clk := rfl
@[simp] theorem State.accumulate_seln (b : Bool) : (s.accumulate b).seln = s.seln := rfl
@[simp] theorem State.accumulate_dout (b : Bool) : (s.accumulate b).dout = s.dout := rfl
@[simp] theorem State.accumulate_busy (b : Bool) : (s.accumulate b).busy = s.busy := rfl
@[simp] theorem State.accumulate_phase (b : Bool) : (s.accumulate b).phase = s.phase := rfl
@[simp] theorem State.accumulate_kind (b : Bool) : (s.accumulate b).kind = s.kind := rfl
@[simp] theorem State.accumulate_n (b : Bool) : (s.accumulate b).n = s.n := rfl
@[simp] theorem State.accumulate_cnt (b : Bool) : (s.accumulate b).cnt = s.cnt := rfl
@[simp] theorem State.accumulate_val (b : Bool) : (s.accumulate b).val = s.val := rfl
@[simp] theorem State.accumulate_acc (b : Bool) :
    (s.accumulate b).acc = if b then setBit s.acc s.idx else s.acc := rfl
@[simp] theorem State.accumulate_trace (b : Bool) : (s.accumulate b).trace = s.trace := rfl
@[simp] theorem State.accumulate_responses (b : Bool) : (s.accumulate b).responses = s.responses := rfl
@[simp] theorem State.accumulate_cmds (b : Bool) : (s.accumulate b).cmds = s.cmds := rfl
@[simp] theorem State.accumulate_din (b : Bool) : (s.accumulate b).din = s.din := rfl
@[simp] theorem State.accumulate_draws (b : Bool) : (s.accumulate b).draws = s.draws := rfl
@[simp] theorem State.accumulate_delays (b : Bool) : (s.accumulate b).delays = s.delays := rfl
@[simp] theorem State.accumulate_rst (b : Bool) : (s.accumulate b).rst = s.rst := rfl

/-! ### idleDout -/

@[simp] theorem State.idleDout_life (p : Bool) : (s.idleDout p).life = s.life := by cases p <;> simp [State.idleDout]
@[simp] theorem State.idleDout_cfg (p : Bool) : (s.idleDout p).cfg = s.cfg := by cases p <;> simp [State.idleDout]
@[simp] theorem State.idleDout_sel (p : Bool) : (s.idleDout p).sel = s.sel := by cases p <;> simp [State.idleDout]
@[simp] theorem State.idleDout_clk (p : Bool) : (s.idleDout p).clk = s.clk := by cases p <;> simp [State.idleDout]
@[simp] theorem State.idleDout_seln (p : Bool) : (s.idleDout p).seln = s.seln := by cases p <;> simp [State.idleDout]
@[simp] theorem State.idleDout_dout (p : Bool) :
    (s.idleDout p).dout = if p then .driven false else s.dout := by cases p <;> simp [State.idleDout]
@[simp] theorem State.idleDout_busy (p : Bool) : (s.idleDout p).busy = s.busy := by cases p <;> simp [State.idleDout]
@[simp] theorem State.idleDout_phase (p : Bool) :
    (s.idleDout p).phase = s.phase := by cases p <;> simp [State.idleDout]
@[simp] theorem State.idleDout_kind (p : Bool) : (s.idleDout p).kind = s.kind := by cases p <;> simp [State.idleDout]
@[simp] theorem State.idleDout_n (p : Bool) : (s.idleDout p).n = s.n := by cases p <;> simp [State.idleDout]
@[simp] theorem State.idleDout_cnt (p : Bool) : (s.idleDout p).cnt = s.cnt := by cases p <;> simp [State.idleDout]
@[simp] theorem State.idleDout_val (p : Bool) : (s.idleDout p).val = s.val := by cases p <;> simp [State.idleDout]
@[simp] theorem State.idleDout_acc (p : Bool) : (s.idleDout p).acc = s.acc := by cases p <;> simp [State.idleDout]
@[simp] theorem State.idleDout_trace (p : Bool) :
    (s.idleDout p).trace = s.trace ++ if p then [.write .dout false] else [] := by cases p <;> simp [State.idleDout]
@[simp] theorem State.idleDout_responses (p : Bool) :
    (s.idleDout p).responses = s.responses := by cases p <;> simp [State.idleDout]
@[simp] theorem State.idleDout_cmds (p : Bool) : (s.idleDout p).cmds = s.cmds := by cases p <;> simp [State.idleDout]
@[simp] theorem State.idleDout_din (p : Bool) : (s.idleDout p).din = s.din := by cases p <;> simp [State.idleDout]
@[simp] theorem State.idleDout_draws (p : Bool) :
    (s.idleDout p).draws = s.draws := by cases p <;> simp [State.idleDout]
@[simp] theorem State.idleDout_delays (p : Bool) :
    (s.idleDout p).delays = s.delays := by cases p <;> simp [State.idleDout]
@[simp] theorem State.idleDout_rst (p : Bool) : (s.idleDout p).rst = s.rst := by cases p <;> simp [State.idleDout]

/-! ### releaseIf -/

@[simp] theorem State.releaseIf_life (p : Bool) (l : Line) :
    (s.releaseIf p l).life = s.life := by cases p <;> simp [State.releaseIf]
@[simp] theorem State.releaseIf_cfg (p : Bool) (l : Line) :
    (s.releaseIf p l).cfg = s.cfg := by cases p <;> simp [State.releaseIf]
@[simp] theorem State.releaseIf_sel (p : Bool) (l : Line) :
    (s.releaseIf p l).sel = s.sel := by cases p <;> simp [State.releaseIf]
@[simp] theorem State.releaseIf_clk (p : Bool) (l : Line) :
    (s.releaseIf p l).clk = if p ∧ l = .clk then .released else s.clk := by cases p <;> simp [State.releaseIf]
@[simp] theorem State.releaseIf_seln (p : Bool) (l : Line) :
    (s.releaseIf p l).seln = if p ∧ l = .sel then .released else s.seln := by cases p <;> simp [State.releaseIf]
@[simp] theorem State.releaseIf_dout (p : Bool) (l : Line) :
    (s.releaseIf p l).dout = if p ∧ l = .dout then .released else s.dout := by cases p <;> simp [State.releaseIf]
@[simp] theorem State.releaseIf_busy (p : Bool) (l : Line) :
    (s.releaseIf p l).busy = s.busy := by cases p <;> simp [State.releaseIf]
@[simp] theorem State.releaseIf_phase (p : Bool) (l : Line) :
    (s.releaseIf p l).phase = s.phase := by cases p <;> simp [State.releaseIf]
@[simp] theorem State.releaseIf_kind (p : Bool) (l : Line) :
    (s.releaseIf p l).kind = s.kind := by cases p <;> simp [State.releaseIf]
@[simp] theorem State.releaseIf_n (p : Bool) (l : Line) :
    (s.releaseIf p l).n = s.n := by cases p <;> simp [State.releaseIf]
@[simp] theorem State.releaseIf_cnt (p : Bool) (l : Line) :
    (s.releaseIf p l).cnt = s.cnt := by cases p <;> simp [State.releaseIf]
@[simp] theorem State.releaseIf_val (p : Bool) (l : Line) :
    (s.releaseIf p l).val = s.val := by cases p <;> simp [State.releaseIf]
@[simp] theorem State.releaseIf_acc (p : Bool) (l : Line) :
    (s.releaseIf p l).acc = s.acc := by cases p <;> simp [State.releaseIf]
@[simp] theorem State.releaseIf_trace (p : Bool) (l : Line) :
    (s.releaseIf p l).trace = s.trace ++ if p then [.rel l] else [] := by cases p <;> simp [State.releaseIf]
@[simp] theorem State.releaseIf_responses (p : Bool) (l : Line) :
    (s.releaseIf p l).responses = s.responses := by cases p <;> simp [State.releaseIf]
@[simp] theorem State.releaseIf_cmds (p : Bool) (l : Line) :
    (s.releaseIf p l).cmds = s.cmds := by cases p <;> simp [State.releaseIf]
@[simp] theorem State.releaseIf_din (p : Bool) (l : Line) :
    (s.releaseIf p l).din = s.din := by cases p <;> simp [State.releaseIf]
@[simp] theorem State.releaseIf_draws (p : Bool) (l : Line) :
    (s.releaseIf p l).draws = s.draws := by cases p <;> simp [State.releaseIf]
@[simp] theorem State.releaseIf_delays (p : Bool) (l : Line) :
    (s.releaseIf p l).delays = s.delays := by cases p <;> simp [State.releaseIf]
@[simp] theorem State.releaseIf_rst (p : Bool) (l : Line) :
    (s.releaseIf p l).rst = s.rst := by cases p <;> simp [State.releaseIf]

/-! ### applyReset -/

@[simp] theorem State.applyReset_life : s.applyReset.life = State.reset.life := rfl
@[simp] theorem State.applyReset_cfg : s.applyReset.cfg = State.reset.cfg := rfl
@[simp] theorem State.applyReset_sel : s.applyReset.sel = State.reset.sel := rfl
@[simp] theorem State.applyReset_clk : s.applyReset.clk = State.reset.clk := rfl
@[simp] theorem State.applyReset_seln : s.applyReset.seln = State.reset.seln := rfl
@[simp] theorem State.applyReset_dout : s.applyReset.dout = State.reset.dout := rfl
@[simp] theorem State.applyReset_busy : s.applyReset.busy = State.reset.busy := rfl
@[simp] theorem State.applyReset_phase : s.applyReset.phase = State.reset.phase := rfl
@[simp] theorem State.applyReset_kind : s.applyReset.kind = State.reset.kind := rfl
@[simp] theorem State.applyReset_n : s.applyReset.n = State.reset.n := rfl
@[simp] theorem State.applyReset_cnt : s.applyReset.cnt = State.reset.cnt := rfl
@[simp] theorem State.applyReset_val : s.applyReset.val = State.reset.val := rfl
@[simp] theorem State.applyReset_acc : s.applyReset.acc = State.reset.acc := rfl
@[simp] theorem State.applyReset_trace : s.applyReset.trace = State.reset.trace := rfl
@[simp] theorem State.applyReset_responses : s.applyReset.responses = State.reset.responses := rfl
@[simp] theorem State.applyReset_cmds : s.applyReset.cmds = s.cmds := rfl
@[simp] theorem State.applyReset_din : s.applyReset.din = s.din := rfl
@[simp] theorem State.applyReset_draws : s.applyReset.draws = s.draws := rfl
@[simp] theorem State.applyReset_delays : s.applyReset.delays = s.delays := rfl
@[simp] theorem State.applyReset_rst : s.applyReset.rst = State.reset.rst := rfl

/-- What a reset leaves depends only on what is outside the block: it is the same wherever in a command it lands, if the same
inputs have been used (log entry 24). -/
theorem State.applyReset_congr {s t : State} (hc : s.cmds = t.cmds) (hd : s.din = t.din) (hv : s.draws = t.draws)
    (hs : s.delays = t.delays) : s.applyReset = t.applyReset := by
  simp only [State.applyReset, hc, hd, hv, hs]

/-! ### presentWord -/

@[simp] theorem State.presentWord_life (w : CmdWord) : (s.presentWord w).life = s.life := rfl
@[simp] theorem State.presentWord_cfg (w : CmdWord) : (s.presentWord w).cfg = s.cfg := rfl
@[simp] theorem State.presentWord_sel (w : CmdWord) : (s.presentWord w).sel = s.sel := rfl
@[simp] theorem State.presentWord_clk (w : CmdWord) : (s.presentWord w).clk = s.clk := rfl
@[simp] theorem State.presentWord_seln (w : CmdWord) : (s.presentWord w).seln = s.seln := rfl
@[simp] theorem State.presentWord_dout (w : CmdWord) : (s.presentWord w).dout = s.dout := rfl
@[simp] theorem State.presentWord_busy (w : CmdWord) : (s.presentWord w).busy = false := rfl
@[simp] theorem State.presentWord_phase (w : CmdWord) : (s.presentWord w).phase = .idle := rfl
@[simp] theorem State.presentWord_kind (w : CmdWord) : (s.presentWord w).kind = s.kind := rfl
@[simp] theorem State.presentWord_n (w : CmdWord) : (s.presentWord w).n = s.n := rfl
@[simp] theorem State.presentWord_cnt (w : CmdWord) : (s.presentWord w).cnt = s.cnt := rfl
@[simp] theorem State.presentWord_val (w : CmdWord) : (s.presentWord w).val = s.val := rfl
@[simp] theorem State.presentWord_acc (w : CmdWord) : (s.presentWord w).acc = s.acc := rfl
@[simp] theorem State.presentWord_trace (w : CmdWord) : (s.presentWord w).trace = s.trace := rfl
@[simp] theorem State.presentWord_responses (w : CmdWord) : (s.presentWord w).responses = s.responses := rfl
@[simp] theorem State.presentWord_cmds (w : CmdWord) : (s.presentWord w).cmds = w :: s.cmds := rfl
@[simp] theorem State.presentWord_din (w : CmdWord) : (s.presentWord w).din = s.din := rfl
@[simp] theorem State.presentWord_draws (w : CmdWord) : (s.presentWord w).draws = s.draws := rfl
@[simp] theorem State.presentWord_delays (w : CmdWord) : (s.presentWord w).delays = s.delays := rfl
@[simp] theorem State.presentWord_rst (w : CmdWord) : (s.presentWord w).rst = false := rfl

/-! ### Operations that are another one with fixed arguments -/

@[simp] theorem State.respondOk_eq_finish (d : Value) : s.respondOk d = s.finish ⟨.ok, d⟩ := rfl
@[simp] theorem State.raise_eq_finish (e : Status) : s.raise e = s.finish ⟨e, 0⟩ := rfl
@[simp] theorem State.reservedCommand_eq_finish : s.reservedCommand = s.finish ⟨.illegalCommand, 0⟩ := rfl
@[simp] theorem State.retire_eq_datapath (k : Kind) (m : Nat) (v : Option Value) (a : Value) :
    s.retire k m v a = s.datapath k m v m a := rfl
@[simp] theorem State.loadedVal_some (v : Value) : s.loadedVal (some v) = v := rfl
@[simp] theorem State.loadedVal_none : s.loadedVal none = Config.unusedVal s.draws := rfl
@[simp] theorem State.loadedDraws_some (v : Value) : s.loadedDraws (some v) = s.draws := rfl
@[simp] theorem State.loadedDraws_none : s.loadedDraws none = s.draws + 1 := rfl

end Sys2Proof.Machine
end

