-- ==== Sys2Proof/Laws/Read.lean ====
section
/-! SUPPORT. What the shift-decoder can do: one lemma per operation, cited instead of unfolding it. -/

namespace Sys2Proof.Machine

/-- `ReadBit` with a data-in line (rule R201). -/
theorem readBit_present {s : State} (h : s.cfg.hasDin = true) :
    readBit s = .ok s.pulse.sample s.pulse.lineRead := by simp [readBit, h]

/-- `ReadBit` without one performs nothing (rule R201). -/
theorem readBit_absent {s : State} (h : s.cfg.hasDin = false) : readBit s = .raised .unsupportedOperation s := by
  simp [readBit, h]

@[simp] theorem State.pulse_sample (s : State) : s.pulse.sample = s.din.next.1 := rfl

@[simp] theorem State.afterReads_zero (s : State) : s.afterReads 0 = s := by
  simp [State.afterReads, Oracle.take, Oracle.after]

@[simp] theorem State.afterReads_cfg (s : State) (n : Nat) : (s.afterReads n).cfg = s.cfg := rfl

/-- Reading a bit and then the others is reading them all. -/
theorem State.afterReads_succ (s : State) (n : Nat) : (s.pulse.lineRead).afterReads n = s.afterReads (n + 1) := by
  simp [State.afterReads, State.pulse, State.lineWrite, State.sleep, State.lineRead, State.sample, Oracle.take_succ,
    Oracle.after_succ, readBitEvents, pulseEvents]

/-- The accumulator after the samples of the pulse indices from `i` on. -/
def accumulated (n : Nat) (order : BitOrder) : (i : Nat) → (acc : Value) → List Bool → Value
  | _, acc, [] => acc
  | i, acc, b :: bs => accumulated n order (i + 1) (if b then setBit acc (index i n order) else acc) bs

/-- The loop with a data-in line takes one sample for each pulse index that is left. -/
theorem readLoop_present (n left i : Nat) (acc : Value) (s : State) (h : s.cfg.hasDin = true) :
    readLoop n left i acc s = .ok (accumulated n s.cfg.order i acc (s.din.take left)) (s.afterReads left) := by
  induction left generalizing i acc s with
  | zero => simp [readLoop, Oracle.take, accumulated]
  | succ left ih =>
    simp only [readLoop, readBit_present h, Result.andThen]
    rw [ih _ _ _ (by simpa using h), State.afterReads_succ]
    simp only [Oracle.take_succ, accumulated, State.lineRead_cfg, State.pulse_cfg, State.lineRead_din,
      State.pulse_din, State.pulse_sample]
    rfl

/-- The loop without one raises at its first bit, before any pulse (rule R210 d). -/
theorem readLoop_absent (n left i : Nat) (acc : Value) (s : State) (h : s.cfg.hasDin = false) (hl : 0 < left) :
    readLoop n left i acc s = .raised .unsupportedOperation s := by
  obtain ⟨k, rfl⟩ := Nat.exists_eq_add_one.mpr hl
  simp [readLoop, readBit_absent h, Result.andThen]

/-- Bit `j` of the accumulator: set before, or a sample of one at the index that is `j`. -/
theorem getLsbD_accumulated (n : Nat) (order : BitOrder) (hn : n ≤ 64) (bs : List Bool) (i : Nat) (acc : Value)
    (hi : i + bs.length ≤ n) (j : Nat) :
    (accumulated n order i acc bs).getLsbD j = true ↔
      acc.getLsbD j = true ∨ ∃ k, k < bs.length ∧ bs.getD k false = true ∧ index (i + k) n order = j := by
  induction bs generalizing i acc with
  | nil => simp [accumulated]
  | cons b bs ih =>
    simp only [List.length_cons] at hi
    have hlt : index i n order < 64 := by have := index_lt order (show i < n by omega); omega
    rw [accumulated, ih (i + 1) _ (by omega)]
    constructor
    · rintro (h | ⟨k, hk, hb, hx⟩)
      · cases b
        · exact .inl h
        · rw [if_pos rfl, getLsbD_setBit _ _ _ hlt] at h
          simp only [Bool.or_eq_true, decide_eq_true_eq] at h
          rcases h with h | h
          · exact .inl h
          · exact .inr ⟨0, by simp, by simp, by simp [h]⟩
      · exact .inr ⟨k + 1, by simpa using hk, by simpa using hb, by rw [← hx]; congr 1; omega⟩
    · rintro (h | ⟨k, hk, hb, hx⟩)
      · left
        cases b
        · exact h
        · rw [if_pos rfl, getLsbD_setBit _ _ _ hlt, h]; rfl
      · cases k with
        | zero =>
          left
          simp only [List.getD_cons_zero] at hb
          subst hb
          rw [if_pos rfl, getLsbD_setBit _ _ _ hlt]
          simp [← hx]
        | succ k =>
          exact .inr ⟨k, by simpa using hk, by simpa using hb, by rw [← hx]; congr 1; omega⟩

/-- A sum of distinct powers of two, bit by bit: the samples placed by the index. -/
theorem testBit_sum_pow (f : Nat → Bool) (n j : Nat) :
    (((List.range n).map fun i => (f i).toNat <<< i).sum).testBit j = (decide (j < n) && f j) := by
  have bound : ∀ m, ((List.range m).map fun i => (f i).toNat <<< i).sum < 2 ^ m := by
    intro m
    induction m with
    | zero => simp
    | succ m ih =>
      rw [List.range_succ, List.map_append, List.sum_append]
      have : (f m).toNat <<< m ≤ 2 ^ m := by cases f m <;> simp [Nat.shiftLeft_eq]
      simp only [List.map_cons, List.map_nil, List.sum_cons, List.sum_nil, Nat.add_zero, Nat.pow_succ]
      omega
  induction n with
  | zero => simp
  | succ n ih =>
    rw [List.range_succ, List.map_append, List.sum_append]
    have hb := bound n
    cases hf : f n
    · simp only [List.map_cons, List.map_nil, List.sum_cons, List.sum_nil, hf, Bool.toNat_false,
        Nat.zero_shiftLeft, Nat.add_zero, ih]
      by_cases hj : j = n
      · subst hj; simp [hf]
      · have : (j < n + 1) = (j < n) := by apply propext; omega
        simp [this]
    · simp only [List.map_cons, List.map_nil, List.sum_cons, List.sum_nil, hf, Bool.toNat_true,
        Nat.add_zero]
      rw [Nat.shiftLeft_eq, Nat.one_mul, Nat.add_comm]
      by_cases hj : j = n
      · subst hj
        rw [Nat.testBit_two_pow_add_eq, ih]
        simp [hf]
      · by_cases hlt : j < n
        · rw [Nat.testBit_two_pow_add_gt hlt, ih]
          simp [hlt, Nat.lt_succ_of_lt hlt]
        · rw [Nat.testBit_lt_two_pow]
          · simp; omega
          · calc 2 ^ n + ((List.range n).map fun i => (f i).toNat <<< i).sum < 2 ^ n + 2 ^ n := by omega
              _ = 2 ^ (n + 1) := by rw [Nat.pow_succ]; omega
              _ ≤ 2 ^ j := Nat.pow_le_pow_right (by omega) (by omega)

/-- A sum over the pulse indices read backwards is the sum read forwards. -/
theorem sum_map_range_reflect (n : Nat) (g : Nat → Nat) :
    ((List.range n).map fun i => g (n - 1 - i)).sum = ((List.range n).map g).sum := by
  have h : ((List.range n).map fun i => g (n - 1 - i)) = ((List.range n).map g).reverse := by
    apply List.ext_getElem
    · simp
    · intro i h1 h2
      simp
  rw [h, List.sum_reverse]

/-- Bit `j` of the assembled value is the sample that pulse `index(j)` took (rule R208). -/
theorem testBit_assembled (bs : List Bool) (order : BitOrder) (j : Nat) :
    (assembled bs order).testBit j = (decide (j < bs.length) && bs.getD (index j bs.length order) false) := by
  cases order
  · exact testBit_sum_pow (fun i => bs.getD i false) bs.length j
  · rw [index, ← testBit_sum_pow (fun i => bs.getD (bs.length - 1 - i) false) bs.length j, assembled]
    congr 1
    rw [← sum_map_range_reflect]
    apply congrArg List.sum
    apply List.map_congr_left
    intro i hi
    rw [List.mem_range] at hi
    simp only [show bs.length - 1 - (bs.length - 1 - i) = i by omega]

/-- The decoder's accumulator is the closed form of rule R208. -/
theorem accumulated_eq_assembled (bs : List Bool) (order : BitOrder) (h : bs.length ≤ 64) :
    accumulated bs.length order 0 0 bs = BitVec.ofNat 64 (assembled bs order) := by
  apply BitVec.eq_of_getLsbD_eq
  intro j hj
  rw [Bool.eq_iff_iff, getLsbD_accumulated _ _ h _ _ _ (by simp), BitVec.getLsbD_ofNat, testBit_assembled]
  have invol : ∀ i, i < bs.length → index (index i bs.length order) bs.length order = i := by
    intro i hi
    cases order <;> simp only [index]
    omega
  simp only [BitVec.ofNat_eq_ofNat, BitVec.getLsbD_zero, Bool.false_eq_true, false_or, Nat.zero_add, hj,
    decide_true, Bool.true_and, Bool.and_eq_true, decide_eq_true_eq]
  constructor
  · rintro ⟨k, hk, hb, rfl⟩
    exact ⟨index_lt order hk, by rw [invol k hk]; exact hb⟩
  · rintro ⟨hlt, hb⟩
    exact ⟨index j bs.length order, index_lt order hlt, hb, invol j hlt⟩

/-- Everything the body of RDN can do. -/
theorem readBits_cases (n : Nat) (s : State) :
    (64 < n ∧ readBits n s = .raised .invalidArgument s) ∨
    (n ≤ 64 ∧ 1 ≤ n ∧ s.cfg.hasDin = false ∧ readBits n s = .raised .unsupportedOperation s) ∨
    (n ≤ 64 ∧ (n = 0 ∨ s.cfg.hasDin = true) ∧
      readBits n s = .ok (BitVec.ofNat 64 (assembled (s.din.take n) s.cfg.order)) (s.afterReads n)) := by
  unfold readBits
  by_cases hn : 64 < n
  · exact .inl ⟨hn, by simp [hn]⟩
  · right
    simp only [hn, ↓reduceIte]
    have hle : n ≤ 64 := by omega
    cases hd : s.cfg.hasDin
    · rcases Nat.eq_zero_or_pos n with rfl | hpos
      · exact .inr ⟨hle, .inl rfl, by simp [readLoop, Oracle.take, assembled]⟩
      · exact .inl ⟨hle, hpos, rfl, readLoop_absent n n 0 0 s hd hpos⟩
    · refine .inr ⟨hle, .inr rfl, ?_⟩
      have hl : (s.din.take n).length = n := Oracle.length_take _ _
      have ha := accumulated_eq_assembled (s.din.take n) s.cfg.order (by omega)
      rw [hl] at ha
      rw [readLoop_present n n 0 0 s hd, ha]

/-- The end of a read that has taken its samples is the closed form. -/
theorem endRead_afterReads (n : Nat) (s : State) :
    endRead n (.ok (BitVec.ofNat 64 (assembled (s.din.take n) s.cfg.order)) (s.afterReads n)) =
      .next (s.didRead n) := by
  simp [endRead, State.afterReads, State.didRead, State.datapath, State.finish, State.loadedVal, State.loadedDraws]

/-- Everything RDN can do. -/
theorem execRdn_cases (n : Nat) (s : State) :
    (s.life ≠ .opened ∧ execRdn n s = .next (s.raise .illegalState)) ∨
    (s.life = .opened ∧ 64 < n ∧ execRdn n s = .next (s.raise .invalidArgument)) ∨
    (s.life = .opened ∧ n ≤ 64 ∧ 1 ≤ n ∧ s.cfg.hasDin = false ∧
      execRdn n s = .next (s.raise .unsupportedOperation)) ∨
    (s.life = .opened ∧ n ≤ 64 ∧ (n = 0 ∨ s.cfg.hasDin = true) ∧ execRdn n s = .next (s.didRead n)) := by
  by_cases ho : s.life = .opened
  · right
    have h : execRdn n s = endRead n (readBits n s) := by simp [execRdn, whenOpen, ho]
    rcases readBits_cases n s with ⟨h1, e⟩ | ⟨h1, h2, h3, e⟩ | ⟨h1, h2, e⟩
    · exact .inl ⟨ho, h1, by rw [h, e]; rfl⟩
    · exact .inr (.inl ⟨ho, h1, h2, h3, by rw [h, e]; rfl⟩)
    · exact .inr (.inr ⟨ho, h1, h2, by rw [h, e, endRead_afterReads]⟩)
  · exact .inl ⟨ho, by simp [execRdn, whenOpen, ho]⟩

/-- RDBIT is the one-bit read (rule R210 e). -/
theorem execRdbit_eq_execRdn (s : State) : execRdbit s = execRdn 1 s := by
  have h : ∀ s : State, ((readBit s).andThen fun b s1 => .ok (bitValue b) s1) = readBits 1 s := by
    intro s
    cases hd : s.cfg.hasDin
    · simp [readBits, readLoop, readBit_absent hd, Result.andThen]
    · cases hb : s.din.next.1 <;> simp [readBits, readLoop, readBit_present hd, Result.andThen, hb, setBit, bitValue]
  simp only [execRdbit, execRdn, h]

end Sys2Proof.Machine
end

