-- ==== Sys2Proof/Laws/Write.lean ====
section
/-! SUPPORT. What the shift-encoder can do: one lemma per operation, cited instead of unfolding it. -/

namespace Sys2Proof.Machine

/-- `WriteBit` with a data-out line (rule R171). -/
theorem writeBit_present {s : State} (h : s.cfg.hasDout = true) (b : Bool) :
    writeBit b s = .ok () (s.lineWrite .dout b).pulse := by simp [writeBit, h]

/-- `WriteBit` without one performs nothing (rule R171). -/
theorem writeBit_absent {s : State} (h : s.cfg.hasDout = false) (b : Bool) :
    writeBit b s = .raised .unsupportedOperation s := by simp [writeBit, h]

@[simp] theorem State.afterWrites_nil (s : State) : s.afterWrites [] = s := by simp [State.afterWrites]

@[simp] theorem State.afterWrites_cfg (s : State) (bits : List Bool) : (s.afterWrites bits).cfg = s.cfg := rfl

/-- Writing a bit and then the others is writing them all. -/
theorem State.afterWrites_cons (s : State) (b : Bool) (bits : List Bool) :
    ((s.lineWrite .dout b).pulse).afterWrites bits = s.afterWrites (b :: bits) := by
  cases h : bits.getLast? with
  | none =>
    rw [List.getLast?_eq_none_iff] at h
    subst h
    simp [State.afterWrites, State.pulse, State.lineWrite, State.sleep, writeBitEvents, pulseEvents]
  | some last =>
    simp [State.afterWrites, State.pulse, State.lineWrite, State.sleep, writeBitEvents, pulseEvents, h,
      List.getLast?_cons]

/-- The loop with a data-out line writes the bits of the pulse indices that are left, in ascending order. -/
theorem writeLoop_present {width : Nat} (v : BitVec width) (n left i : Nat) (s : State)
    (h : s.cfg.hasDout = true) :
    writeLoop v n left i s =
      .ok () (s.afterWrites ((List.range' i left).map fun j => bitAt v (index j n s.cfg.order))) := by
  induction left generalizing i s with
  | zero => simp [writeLoop]
  | succ left ih =>
    have hc : ((s.lineWrite .dout (bitAt v (index i n s.cfg.order))).pulse).cfg = s.cfg := by simp
    simp only [writeLoop, writeBit_present h, Result.andThen]
    rw [ih (i + 1) _ (by simpa using h), hc, State.afterWrites_cons]
    simp [List.range'_succ]

/-- The loop without one raises at its first bit, before any line is touched (rule R181 d). -/
theorem writeLoop_absent {width : Nat} (v : BitVec width) (n left i : Nat) (s : State)
    (h : s.cfg.hasDout = false) (hl : 0 < left) :
    writeLoop v n left i s = .raised .unsupportedOperation s := by
  obtain ⟨k, rfl⟩ := Nat.exists_eq_add_one.mpr hl
  simp [writeLoop, writeBit_absent h, Result.andThen]

/-- Everything `WriteBits` can do. -/
theorem writeBits_cases {width : Nat} (hw : 0 < width) (v : BitVec width) (n : Nat) (s : State) :
    (width < n ∧ writeBits v n s = .raised .invalidArgument s) ∨
    (n ≤ width ∧ 1 ≤ n ∧ s.cfg.hasDout = false ∧ writeBits v n s = .raised .unsupportedOperation s) ∨
    (n ≤ width ∧ (n = 0 ∨ s.cfg.hasDout = true) ∧
      writeBits v n s = .ok () (s.afterWrites (wireBits v n s.cfg.order))) := by
  unfold writeBits
  by_cases hn : width < n
  · exact .inl ⟨hn, by simp [hn]⟩
  · right
    simp only [hn, ↓reduceIte]
    have hle : n ≤ width := by omega
    cases hd : s.cfg.hasDout
    · rcases Nat.eq_zero_or_pos n with rfl | hpos
      · exact .inr ⟨hle, .inl rfl, by simp [writeLoop]⟩
      · exact .inl ⟨hle, hpos, rfl, writeLoop_absent v n n 0 s hd hpos⟩
    · refine .inr ⟨hle, .inr rfl, ?_⟩
      rw [writeLoop_present v n n 0 s hd, wireBits_eq]
      simp [List.range_eq_range', bitAt_eq_getLsbD hw]

/-- The end of a write that has performed its bits is the closed form. -/
theorem endWrite_afterWrites {width : Nat} (v : BitVec width) (n : Nat) (s : State) :
    endWrite v n (.ok () (s.afterWrites (wireBits v n s.cfg.order))) = .next (s.wroteBits v n) := by
  have h : ((wireBits v n s.cfg.order).isEmpty = true) = (n = 0) := by
    rw [List.isEmpty_iff_length_eq_zero, length_wireBits]
  simp [endWrite, State.afterWrites, State.wroteBits, State.datapath, State.finish, h, State.loadedVal,
    State.loadedDraws]

/-- Everything a wide write can do. -/
theorem wideWrite_cases {width : Nat} (hw : 0 < width) (v : BitVec width) (n : Nat) (s : State) :
    (s.life ≠ .opened ∧ wideWrite v n s = .next (s.raise .illegalState)) ∨
    (s.life = .opened ∧ width < n ∧ wideWrite v n s = .next (s.raise .invalidArgument)) ∨
    (s.life = .opened ∧ n ≤ width ∧ 1 ≤ n ∧ s.cfg.hasDout = false ∧
      wideWrite v n s = .next (s.raise .unsupportedOperation)) ∨
    (s.life = .opened ∧ n ≤ width ∧ (n = 0 ∨ s.cfg.hasDout = true) ∧
      wideWrite v n s = .next (s.wroteBits v n)) := by
  by_cases ho : s.life = .opened
  · right
    have hw' : wideWrite v n s = endWrite v n (writeBits v n s) := by simp [wideWrite, whenOpen, ho]
    rcases writeBits_cases hw v n s with ⟨h, e⟩ | ⟨h1, h2, h3, e⟩ | ⟨h1, h2, e⟩
    · exact .inl ⟨ho, h, by rw [hw', e]; rfl⟩
    · exact .inr (.inl ⟨ho, h1, h2, h3, by rw [hw', e]; rfl⟩)
    · exact .inr (.inr ⟨ho, h1, h2, by rw [hw', e, endWrite_afterWrites]⟩)
  · exact .inl ⟨ho, by simp [wideWrite, whenOpen, ho]⟩

/-- WRBIT is the one-bit write of a one-bit value. -/
theorem execWrbit_eq_wideWrite (b : Bool) (s : State) : execWrbit b s = wideWrite (BitVec.ofBool b) 1 s := by
  have h : bitAt (BitVec.ofBool b) 0 = b := by cases b <;> rfl
  have hb : ∀ s : State, writeBits (BitVec.ofBool b) 1 s = writeBit b s := by
    intro s
    cases hd : s.cfg.hasDout
    · simp [writeBits, writeLoop, writeBit_absent hd, Result.andThen]
    · simp [writeBits, writeLoop, writeBit_present hd, Result.andThen, h]
  simp only [execWrbit, wideWrite, hb]

end Sys2Proof.Machine
end

