-- ==== Sys2Proof/Laws/Exec.lean ====
section
/-! SUPPORT. Everything a command can do, said once: it ends with the error of its first failing check, in the state it
began in, or it does what its closed form says. -/

namespace Sys2Proof.Machine

variable {s : State}

/-- A wide write is decided by the checks of rule R235. -/
theorem wideWrite_eq {width : Nat} (hw : 0 < width) (v : BitVec width) (n : Nat) (s : State) :
    wideWrite v n s = .next
      (if s.life ≠ .opened then s.raise .illegalState
       else if width < n then s.raise .invalidArgument
       else if 1 ≤ n ∧ s.cfg.hasDout = false then s.raise .unsupportedOperation
       else s.wroteBits v n) := by
  rcases wideWrite_cases hw v n s with ⟨h, e⟩ | ⟨h1, h2, e⟩ | ⟨h1, h2, h3, h4, e⟩ | ⟨h1, h2, h3, e⟩ <;> rw [e]
  · simp [h]
  · simp [h1, h2]
  · simp [h1, h4, show ¬ width < n by omega, show n ≠ 0 by omega]
  · have : ¬ (1 ≤ n ∧ s.cfg.hasDout = false) := by
      rintro ⟨h, h'⟩
      rcases h3 with h3 | h3
      · omega
      · simp [h3] at h'
    simp only [ne_eq, h1, not_true_eq_false, ↓reduceIte, show ¬ width < n by omega, this]

/-- RDN is decided by the checks of rule R235. -/
theorem execRdn_eq (n : Nat) (s : State) :
    execRdn n s = .next
      (if s.life ≠ .opened then s.raise .illegalState
       else if 64 < n then s.raise .invalidArgument
       else if 1 ≤ n ∧ s.cfg.hasDin = false then s.raise .unsupportedOperation
       else s.didRead n) := by
  rcases execRdn_cases n s with ⟨h, e⟩ | ⟨h1, h2, e⟩ | ⟨h1, h2, h3, h4, e⟩ | ⟨h1, h2, h3, e⟩ <;> rw [e]
  · simp [h]
  · simp [h1, h2]
  · simp [h1, h4, show ¬ 64 < n by omega, show n ≠ 0 by omega]
  · have : ¬ (1 ≤ n ∧ s.cfg.hasDin = false) := by
      rintro ⟨h, h'⟩
      rcases h3 with h3 | h3
      · omega
      · simp [h3] at h'
    simp only [ne_eq, h1, not_true_eq_false, ↓reduceIte, show ¬ 64 < n by omega, this]

/-- What a command comes to, by its first failing check. -/
def State.ended (s : State) (i : Instr) : State :=
  match firstError i s with
  | some e => s.raise e
  | none => s.completed i

theorem State.ended_of_error {i : Instr} {e : Status} (h : firstError i s = some e) : s.ended i = s.raise e := by
  simp only [State.ended, h]

theorem State.ended_of_ok {i : Instr} (h : firstError i s = none) : s.ended i = s.completed i := by
  simp only [State.ended, h]

theorem execOpen_eq (order : BitOrder) (hasDout hasDin : Bool) (s : State) :
    execOpen order hasDout hasDin s = .next (s.ended (.openConn order hasDout hasDin)) := by
  by_cases h : s.life = .unopened
  · cases hasDout <;>
      simp [execOpen, h, State.ended, firstError, lifeWrong, selWrong, countTooLarge, lineAbsent, State.completed,
        State.setCfg, State.lineWrite, State.idleDout, State.setSel, State.setLife, State.finish]
  · simp [execOpen, h, State.ended, firstError, lifeWrong]

theorem execClose_eq (s : State) : execClose s = .next (s.ended .closeConn) := by
  by_cases h : s.life = .opened
  · cases hd : s.cfg.hasDout <;> cases hi : s.cfg.hasDin <;>
      simp [execClose, whenOpen, h, State.ended, firstError, lifeWrong, selWrong, countTooLarge, lineAbsent,
        State.completed, State.lineRelease, State.releaseIf, State.setLife, State.finish, hd, hi]
  · simp [execClose, whenOpen, h, State.ended, firstError, lifeWrong]

theorem execSelect_eq (s : State) : execSelect s = .next (s.ended .select) := by
  by_cases h : s.life = .opened
  · cases hs : s.sel <;>
      simp [execSelect, whenOpen, h, hs, State.ended, firstError, lifeWrong, selWrong, countTooLarge, lineAbsent,
        State.completed, State.lineWrite, State.setSel, State.finish]
  · simp [execSelect, whenOpen, h, State.ended, firstError, lifeWrong]

theorem execRelease_eq (s : State) : execRelease s = .next (s.ended .release) := by
  by_cases h : s.life = .opened
  · cases hs : s.sel <;>
      simp [execRelease, whenOpen, h, hs, State.ended, firstError, lifeWrong, selWrong, countTooLarge, lineAbsent,
        State.completed, State.lineWrite, State.setSel, State.finish]
  · simp [execRelease, whenOpen, h, State.ended, firstError, lifeWrong]

theorem execSync_eq (s : State) : execSync s = .next (s.ended .sync) := by
  by_cases h : s.life = .opened
  · simp [execSync, whenOpen, h, State.ended, firstError, lifeWrong, selWrong, countTooLarge, lineAbsent,
      State.completed, State.pulse, State.lineWrite, State.sleep, State.datapath, State.loadedVal, State.loadedDraws,
      State.finish, pulseEvents]
  · simp [execSync, whenOpen, h, State.ended, firstError, lifeWrong]

/-- A wide write through an entry point whose checks are those of a write of its width. -/
theorem wideWrite_eq_ended {width : Nat} (hw : 0 < width) (v : BitVec width) (n : Nat) (s : State) (i : Instr)
    (hc : s.completed i = s.wroteBits v n)
    (he : firstError i s =
      if s.life ≠ .opened then some .illegalState
      else if width < n then some .invalidArgument
      else if 1 ≤ n ∧ s.cfg.hasDout = false then some .unsupportedOperation
      else none) :
    wideWrite v n s = .next (s.ended i) := by
  rw [wideWrite_eq hw, State.ended, he, hc]
  split_ifs <;> rfl

/-- A read whose checks are those of RDN. -/
theorem execRdn_eq_ended (n : Nat) (s : State) (i : Instr) (hc : s.completed i = s.didRead n)
    (he : firstError i s =
      if s.life ≠ .opened then some .illegalState
      else if 64 < n then some .invalidArgument
      else if 1 ≤ n ∧ s.cfg.hasDin = false then some .unsupportedOperation
      else none) :
    execRdn n s = .next (s.ended i) := by
  rw [execRdn_eq, State.ended, he, hc]
  split_ifs <;> rfl

/-- Every command. -/
theorem exec_eq_ended (i : Instr) (s : State) : exec i s = .next (s.ended i) := by
  cases i with
  | openConn order hasDout hasDin => exact execOpen_eq order hasDout hasDin s
  | closeConn => exact execClose_eq s
  | select => exact execSelect_eq s
  | release => exact execRelease_eq s
  | sync => exact execSync_eq s
  | wrbit b =>
    rw [exec, execWrbit_eq_wideWrite]
    exact wideWrite_eq_ended (by omega) _ _ s _ rfl
      (by simp [firstError, lifeWrong, selWrong, countTooLarge, lineAbsent])
  | rdbit =>
    rw [exec, execRdbit_eq_execRdn]
    exact execRdn_eq_ended 1 s _ rfl (by simp [firstError, lifeWrong, selWrong, countTooLarge, lineAbsent])
  | rdn n =>
    exact execRdn_eq_ended n s _ rfl (by simp [firstError, lifeWrong, selWrong, countTooLarge, lineAbsent])
  | wr8 v n =>
    exact wideWrite_eq_ended (by omega) v n s _ rfl
      (by simp [firstError, lifeWrong, selWrong, countTooLarge, lineAbsent])
  | wr16 v n =>
    exact wideWrite_eq_ended (by omega) v n s _ rfl
      (by simp [firstError, lifeWrong, selWrong, countTooLarge, lineAbsent])
  | wr32 v n =>
    exact wideWrite_eq_ended (by omega) v n s _ rfl
      (by simp [firstError, lifeWrong, selWrong, countTooLarge, lineAbsent])
  | wr64 v n =>
    exact wideWrite_eq_ended (by omega) v n s _ rfl
      (by simp [firstError, lifeWrong, selWrong, countTooLarge, lineAbsent])

/-- A command that has ended did so in one of two ways. -/
theorem State.ended_cases (i : Instr) (s : State) :
    (∃ e, firstError i s = some e ∧ s.ended i = s.raise e) ∨
      (firstError i s = none ∧ s.ended i = s.completed i) := by
  cases h : firstError i s with
  | some e => exact .inl ⟨e, rfl, State.ended_of_error h⟩
  | none => exact .inr ⟨rfl, State.ended_of_ok h⟩

/-- However it ended, the block is ready for the next command. -/
theorem State.ended_busy (i : Instr) (s : State) : (s.ended i).busy = false := by
  rcases State.ended_cases i s with ⟨e, -, h⟩ | ⟨-, h⟩ <;> rw [h]
  · rfl
  · cases i <;> rfl

/-- A command other than OPEN that passes its checks runs while the Connection is open. -/
theorem opened_of_firstError {i : Instr} (h : firstError i s = none) (hi : ∀ o d r, i ≠ .openConn o d r) :
    s.life = .opened := by
  unfold firstError at h
  split_ifs at h with h1
  cases i <;> simp_all [lifeWrong]

/-- A command that passes its checks has the data line it needs. -/
theorem lineAbsent_of_firstError {i : Instr} (h : firstError i s = none) : lineAbsent i s = false := by
  unfold firstError at h
  split_ifs at h with h1 h2 h3 h4
  simpa using h4

end Sys2Proof.Machine
end

