-- ==== Sys2Proof/Laws/PerInstr.lean ====
section
/-! SUPPORT. One lemma per command about the command as syntax. Family RoundTrip: the word of a well-formed command
decodes to it. -/

namespace Sys2Proof.Laws.RoundTrip

/-- The command, if it has a word, is what its word decodes to. -/
def Statement (i : Instr) : Prop := i.WellFormed = true → decode (encodeWord i) = .ok i

theorem openConn (order : BitOrder) (hasDout hasDin : Bool) : Statement (.openConn order hasDout hasDin) := by
  intro _
  simp [decode, encodeWord, Instr.op]

theorem closeConn : Statement .closeConn := by intro _; decide

theorem select : Statement .select := by intro _; decide

theorem release : Statement .release := by intro _; decide

theorem sync : Statement .sync := by intro _; decide

theorem wrbit (b : Bool) : Statement (.wrbit b) := by intro _; cases b <;> decide

theorem rdbit : Statement .rdbit := by intro _; decide

theorem rdn (n : Nat) : Statement (.rdn n) := by
  intro h
  simp [decode, encodeWord, Instr.op, toNat_ofNat_count h, -BitVec.toNat_ofNat]

theorem wr8 (v : BitVec 8) (n : Nat) : Statement (.wr8 v n) := by
  intro h
  simp [decode, encodeWord, Instr.op, toNat_ofNat_count h, -BitVec.toNat_ofNat, -BitVec.setWidth_setWidth]

theorem wr16 (v : BitVec 16) (n : Nat) : Statement (.wr16 v n) := by
  intro h
  simp [decode, encodeWord, Instr.op, toNat_ofNat_count h, -BitVec.toNat_ofNat, -BitVec.setWidth_setWidth]

theorem wr32 (v : BitVec 32) (n : Nat) : Statement (.wr32 v n) := by
  intro h
  simp [decode, encodeWord, Instr.op, toNat_ofNat_count h, -BitVec.toNat_ofNat, -BitVec.setWidth_setWidth]

theorem wr64 (v : BitVec 64) (n : Nat) : Statement (.wr64 v n) := by
  intro h
  simp [decode, encodeWord, Instr.op, toNat_ofNat_count h, -BitVec.toNat_ofNat]

end Sys2Proof.Laws.RoundTrip
end

