-- ==== Sys2Proof/Laws/Sequencer.lean ====
section
/-! SUPPORT. What the sequencer can do: one lemma for "next bit", one for the phases of each kind of bit. -/

namespace Sys2Proof.Machine

/-- Everything "next bit" can do (rule R156). -/
theorem nextBit_cases (s : State) :
    ((s.cnt + 1).toNat < s.n.toNat ∧
      nextBit s = .next { s with cnt := s.cnt + 1, phase := firstPhase s.kind }) ∨
    ((s.cnt + 1).toNat = s.n.toNat ∧
      nextBit s = .next (State.respondOk { s with cnt := s.cnt + 1 } (transferData s))) ∨
    (s.n.toNat < (s.cnt + 1).toNat ∧ nextBit s = .fault .countOverrun) := by
  unfold nextBit
  rcases Nat.lt_trichotomy (s.cnt + 1).toNat s.n.toNat with h | h | h
  · exact .inl ⟨h, by simp only [h, if_true]; rfl⟩
  · exact .inr (.inl ⟨h, by simp only [h, if_true, lt_irrefl, if_false]; rfl⟩)
  · refine .inr (.inr ⟨h, ?_⟩)
    simp only [show ¬ (s.cnt + 1).toNat < s.n.toNat by omega, show ¬ (s.cnt + 1).toNat = s.n.toNat by omega,
      if_false]

/-- Below 64 the pulse index does not wrap. -/
theorem toNat_cnt_succ {s : State} (h1 : s.cnt.toNat < s.n.toNat) (h2 : s.n.toNat ≤ 64) :
    (s.cnt + 1).toNat = s.cnt.toNat + 1 := by
  rw [BitVec.toNat_add, show (1 : BitVec 7).toNat = 1 from rfl]
  omega

theorem toNat_ofNat_cnt {i : Nat} (h : i ≤ 64) : (BitVec.ofNat 7 i).toNat = i := by
  rw [BitVec.toNat_ofNat]
  omega

theorem toNat_ofNat_n {n : Nat} (h : n ≤ 64) : (BitVec.ofNat 8 n).toNat = n := by
  rw [BitVec.toNat_ofNat]
  omega

/-- "Next bit" before the last one. -/
theorem nextBit_more {s : State} {i n : Nat} (hc : s.cnt = BitVec.ofNat 7 i) (hN : s.n = BitVec.ofNat 8 n)
    (h : i + 1 < n) (hn : n ≤ 64) :
    nextBit s = .next { s with cnt := BitVec.ofNat 7 (i + 1), phase := firstPhase s.kind } := by
  have e : s.cnt + 1 = BitVec.ofNat 7 (i + 1) := by rw [hc]; exact (BitVec.ofNat_add i 1).symm
  rcases nextBit_cases s with ⟨a, e'⟩ | ⟨a, e'⟩ | ⟨a, e'⟩ <;>
    rw [e, hN, toNat_ofNat_cnt (show i + 1 ≤ 64 by omega), toNat_ofNat_n hn] at a
  · rw [e', e]
  · omega
  · omega

/-- "Next bit" at the last one. -/
theorem nextBit_last {s : State} {i n : Nat} (hc : s.cnt = BitVec.ofNat 7 i) (hN : s.n = BitVec.ofNat 8 n)
    (h : i + 1 = n) (hn : n ≤ 64) :
    nextBit s = .next (State.respondOk { s with cnt := BitVec.ofNat 7 n } (transferData s)) := by
  have e : s.cnt + 1 = BitVec.ofNat 7 n := by rw [hc, ← h]; exact (BitVec.ofNat_add i 1).symm
  rcases nextBit_cases s with ⟨a, e'⟩ | ⟨a, e'⟩ | ⟨a, e'⟩ <;>
    rw [e, hN, toNat_ofNat_cnt hn, toNat_ofNat_n hn] at a
  · omega
  · rw [e', e]
  · omega

theorem runPhases_tick {s t : State} (f : Nat) (hb : s.busy = true) (h : tick s = .next t) :
    runPhases (f + 1) s = runPhases f t := by simp [runPhases, hb, h]

theorem runPhases_done {s : State} (f : Nat) (hb : s.busy = false) : runPhases f s = .next s := by
  cases f <;> simp [runPhases, hb]

/-- `Sleep` returns when `dly_ack` is 1 (rules R56, R81). -/
theorem tick_dwell_acked {s : State} (hp : s.phase = .pDwell) (h : s.delays.headD 0 = 0) :
    tick s = .next (s.sleep.setPhase .pLow) := by
  simp only [tick, hp, State.dlyAcked, h, beq_self_eq_true, if_true]

/-- Until then the sequencer waits, and nothing is performed. -/
theorem tick_dwell_held {s : State} {k : Nat} {rest : List Nat} (hp : s.phase = .pDwell)
    (h : s.delays = (k + 1) :: rest) : tick s = .next { s with delays := k :: rest } := by
  simp [tick, hp, State.dlyAcked, State.holdDelay, h]

/-- The delay primitive holds off, then `Sleep` returns: one step for each step of holding off and one for the return
(rules R56, R81). -/
theorem runPhases_dwell {s : State} (f : Nat) (hb : s.busy = true) (hp : s.phase = .pDwell) :
    runPhases (f + 1 + s.delays.headD 0) s = runPhases f (s.sleep.setPhase .pLow) := by
  generalize hk : s.delays.headD 0 = k
  induction k generalizing s with
  | zero => exact runPhases_tick f hb (tick_dwell_acked hp hk)
  | succ k ih =>
    cases hd : s.delays with
    | nil => simp [hd] at hk
    | cons d rest =>
      have h : s.delays = (k + 1) :: rest := by simpa [hd] using hk
      rw [← Nat.add_assoc, runPhases_tick _ hb (tick_dwell_held hp h),
        ih (s := { s with delays := k :: rest }) hb hp rfl]
      simp [State.sleep, State.setPhase, h]

/-- The phases of one bit written, and the steps of holding off, are `WriteBit` and "next bit". -/
theorem runPhases_writeBit {s t : State} (f : Nat) (hb : s.busy = true) (hp : s.phase = .wData) (hk : s.kind = .write)
    (h : nextBit ((s.lineWrite .dout (bitAt s.val s.idx)).pulse.setPhase .pLow) = .next t) :
    runPhases (f + 4 + s.delays.headD 0) s = runPhases f t := by
  rw [show f + 4 + s.delays.headD 0 = f + 1 + 1 + s.delays.headD 0 + 1 + 1 by omega,
    runPhases_tick _ hb (by rw [tick, hp]),
    runPhases_tick _ (by simpa using hb) (by rw [tick]; simp only [State.setPhase_phase]; rfl)]
  refine (runPhases_dwell (f + 1)
    (s := ((((s.lineWrite .dout (bitAt s.val s.idx)).setPhase .pHigh).lineWrite .clk true).setPhase .pDwell))
    (by simpa using hb) rfl).trans (runPhases_tick f (by simpa using hb) ?_)
  rw [tick]
  simp only [State.setPhase_phase, State.setPhase_kind, State.sleep_kind, State.lineWrite_kind, hk]
  exact h

/-- The phases of one bit read are `ReadBit`, the accumulator, and "next bit". -/
theorem runPhases_readBit {s t : State} (f : Nat) (hb : s.busy = true) (hp : s.phase = .pHigh) (hk : s.kind = .read)
    (h : nextBit ((s.pulse.setPhase .rSample).lineRead.accumulate s.din.next.1) = .next t) :
    runPhases (f + 4 + s.delays.headD 0) s = runPhases f t := by
  rw [show f + 4 + s.delays.headD 0 = f + 1 + 1 + 1 + s.delays.headD 0 + 1 by omega,
    runPhases_tick _ hb (by rw [tick, hp])]
  refine (runPhases_dwell (f + 1 + 1) (s := (s.lineWrite .clk true).setPhase .pDwell)
    (by simpa using hb) rfl).trans ?_
  rw [runPhases_tick (f + 1) (by simpa using hb) (by
      rw [tick]
      simp only [State.setPhase_phase, State.setPhase_kind, State.sleep_kind, State.lineWrite_kind, hk]; rfl),
    runPhases_tick f (by simpa using hb) (t := t)]
  rw [tick]
  simp only [State.setPhase_phase]
  exact h

/-- The phases of a bare pulse are `Pulse` and "next bit". -/
theorem runPhases_pulse {s t : State} (f : Nat) (hb : s.busy = true) (hp : s.phase = .pHigh) (hk : s.kind = .pulse)
    (h : nextBit (s.pulse.setPhase .pLow) = .next t) :
    runPhases (f + 3 + s.delays.headD 0) s = runPhases f t := by
  rw [show f + 3 + s.delays.headD 0 = f + 1 + 1 + s.delays.headD 0 + 1 by omega,
    runPhases_tick _ hb (by rw [tick, hp])]
  refine (runPhases_dwell (f + 1) (s := (s.lineWrite .clk true).setPhase .pDwell)
    (by simpa using hb) rfl).trans (runPhases_tick f (by simpa using hb) ?_)
  rw [tick]
  simp only [State.setPhase_phase, State.setPhase_kind, State.sleep_kind, State.lineWrite_kind, hk]
  exact h

end Sys2Proof.Machine
end

