-- ==== Sys2Proof/Laws/Step.lean ====
section
/-! SUPPORT. Everything a step of an idle or a busy block can do, and a run as its steps. -/

namespace Sys2Proof.Machine

/-- Everything a step of an idle block can do. -/
theorem step_idle_cases (s : State) (hb : s.busy = false) :
    (s.rst = true ∧ step s = .next s.applyReset) ∨
    (s.rst = false ∧ s.cmds = [] ∧ step s = .next s) ∨
    (∃ w rest i, s.rst = false ∧ s.cmds = w :: rest ∧ decode w = .ok i ∧
      step s = .next ((s.accept rest).ended i)) ∨
    (∃ w rest e, s.rst = false ∧ s.cmds = w :: rest ∧ decode w = .error e ∧
      step s = .next ((s.accept rest).raise .illegalCommand)) := by
  cases hr : s.rst
  · cases hc : s.cmds with
    | nil => exact .inr (.inl ⟨rfl, rfl, by simp [step, stepWith, hr, hb, acceptNext, hc]⟩)
    | cons w rest =>
      cases hd : decode w with
      | ok i =>
        exact .inr (.inr (.inl ⟨w, rest, i, rfl, rfl, hd, by
          simp [step, stepWith, hr, hb, acceptNext, hc, hd, exec_eq_ended]⟩))
      | error e =>
        exact .inr (.inr (.inr ⟨w, rest, e, rfl, rfl, hd, by
          simp [step, stepWith, hr, hb, acceptNext, hc, hd, State.reservedCommand]⟩))
  · exact .inl ⟨rfl, by simp [step, stepWith, hr]⟩

/-- A step of a busy block is one phase. -/
theorem step_busy {s : State} (hr : s.rst = false) (hb : s.busy = true) : step s = tick s := by
  simp [step, stepWith, hr, hb]

/-- A run of one step more, on any machine. -/
theorem run_succ_of_step (M : Host.Core) (k : Nat) {s t : M.State} (h : M.step s = .next t) :
    M.run (k + 1) s = M.run k t := by
  rw [Host.Core.run.eq_def]
  simp only [h]

/-- A run of one step more, on this machine. -/
theorem core_run_succ (k : Nat) {s t : State} (h : step s = .next t) :
    Sys2Proof.core.run (k + 1) s = Sys2Proof.core.run k t := run_succ_of_step Sys2Proof.core k h

end Sys2Proof.Machine
end

