-- ==== Sys2Proof/Laws/Trace.lean ====
section
/-! SUPPORT. The readings of a trace, over one event and over traces put together: the state of the lines, the shape of
the pulses, the least time, the primitives counted. -/

namespace Sys2Proof.Machine

variable {s t : State}

/-! ### The state of the lines -/

/-- Only the three registers and the trace matter. -/
theorem LinesFollowTrace.of_eq (h : LinesFollowTrace s) (hc : t.clk = s.clk) (hs : t.seln = s.seln)
    (hd : t.dout = s.dout) (ht : t.trace = s.trace) : LinesFollowTrace t :=
  ⟨by rw [hc, ht]; exact h.clk, by rw [hs, ht]; exact h.seln, by rw [hd, ht]; exact h.dout⟩

theorem LinesFollowTrace.lineWrite (h : LinesFollowTrace s) (l : OutLine) (b : Bool) :
    LinesFollowTrace (s.lineWrite l b) := by
  constructor <;> cases l <;> simp [lineAfter, List.foldl_append] <;>
    first | exact h.clk | exact h.seln | exact h.dout

theorem LinesFollowTrace.lineRelease (h : LinesFollowTrace s) (l : Line) : LinesFollowTrace (s.lineRelease l) := by
  constructor <;> cases l <;> simp [lineAfter, List.foldl_append] <;>
    first | exact h.clk | exact h.seln | exact h.dout

theorem LinesFollowTrace.lineRead (h : LinesFollowTrace s) : LinesFollowTrace s.lineRead := by
  constructor <;> simp [lineAfter, List.foldl_append] <;> first | exact h.clk | exact h.seln | exact h.dout

theorem LinesFollowTrace.sleep (h : LinesFollowTrace s) : LinesFollowTrace s.sleep := by
  constructor <;> simp [lineAfter, List.foldl_append] <;> first | exact h.clk | exact h.seln | exact h.dout

theorem LinesFollowTrace.pulse (h : LinesFollowTrace s) : LinesFollowTrace s.pulse :=
  ((h.lineWrite .clk true).sleep).lineWrite .clk false

/-! ### The shape of the pulses -/

theorem pulsesShaped_append {a b : List Event} (ha : pulsesShaped a = true) (hb : pulsesShaped b = true) :
    pulsesShaped (a ++ b) = true := by
  fun_induction pulsesShaped a with
  | case1 => exact hb
  | case2 rest ih => exact ih ha
  | case3 => simp at ha
  | case4 => simp at ha
  | case5 e rest h1 h2 h3 ih =>
    have := ih ha
    rw [List.cons_append]
    rw [pulsesShaped]
    · exact this
    · intro r h; simp_all
    · simp_all
    · simp_all

/-! ### Time and counts -/

theorem leastTime_append (a b : List Event) : leastTime (a ++ b) = leastTime a + leastTime b := by
  simp [leastTime]

theorem primitiveCounts_append (a b : List Event) :
    primitiveCounts (a ++ b) =
      ⟨(primitiveCounts a).clk + (primitiveCounts b).clk, (primitiveCounts a).sel + (primitiveCounts b).sel,
        (primitiveCounts a).dout + (primitiveCounts b).dout, (primitiveCounts a).din + (primitiveCounts b).din,
        (primitiveCounts a).sleep + (primitiveCounts b).sleep, (primitiveCounts a).rel + (primitiveCounts b).rel⟩ := by
  simp [primitiveCounts]

end Sys2Proof.Machine
end

