-- ==== Sys2Proof/Tests/Slice0.lean ====
section
/-! SUPPORT. Tests whose expected results come from the spec (the worked encodings of `30_encoding.md` section 6 and the
vectors of `95_test_vectors.md`), and witnesses that the hypotheses of the statements can be met. -/

namespace Sys2Proof.Tests

open Sys2Proof Sys2Proof.Machine

/-! ### Small states -/

/-- After `OPEN` from reset, with the peripheral's answers. -/
def openState (order : BitOrder) (hasDout hasDin : Bool) (answers : List Bool := []) : State :=
  { State.reset with
    life := .opened
    cfg := ⟨order, hasDout, hasDin⟩
    clk := .driven false
    seln := .driven true
    dout := if hasDout then .driven false else .undriven
    trace := [.write .clk false, .write .sel true] ++ (if hasDout then [.write .dout false] else [])
    din := ⟨answers, 0⟩ }

/-- A selected peripheral, both data lines present. -/
def selectedState : State :=
  { openState .mostSignificantFirst true true with
    sel := .selected
    seln := .driven false
    trace := [.write .clk false, .write .sel true, .write .dout false, .write .sel false] }

/-- After `OPEN msf, dout, din` and `CLOSE`. -/
def closedState : State :=
  { State.reset with
    life := .closed
    cfg := ⟨.mostSignificantFirst, true, true⟩
    clk := .released
    seln := .released
    dout := .released
    trace := [.write .clk false, .write .sel true, .write .dout false, .rel .clk, .rel .sel, .rel .dout, .rel .din] }

/-- In the middle of a transfer. -/
def runningState (kind : Kind) (phase : Phase) (cnt : BitVec 7) (n : BitVec 8) : State :=
  { openState .leastSignificantFirst true true [true, false] with busy := true, kind, phase, cnt, n, val := 5 }

/-- A state whose host presents one word. -/
def presenting (s : State) (w : CmdWord) : State := { s with cmds := [w] }

/-- What a field of the next state is, if there is one. -/
def after {α : Type} (o : Host.Outcome State Fault Refusal) (f : State → α) : Option α :=
  match o with
  | .next s => some (f s)
  | .fault _ => none
  | .refused _ => none

/-- The bits a command wrote to the data-out line of an open Connection, read off its trace. -/
def wire (i : Instr) (order : BitOrder) : Option (List Bool) :=
  after (exec i (openState order true false)) fun t => (doutWrites t.trace).drop 1

/-- The last response. -/
def lastResponse (s : State) : Option Response := s.responses.getLast?

/-- The trace and the last response after a command. -/
def seen (i : Instr) (s : State) : Option (List Event × Option Response) :=
  after (exec i s) fun t => (t.trace.drop s.trace.length, lastResponse t)

/-! ### Well-formedness: each check refuses an ill-formed command -/

theorem test_wf_rdn : Instr.WellFormed (.rdn 256) = false ∧ Instr.WellFormed (.rdn 255) = true := by decide
theorem test_wf_wr8 : Instr.WellFormed (.wr8 0 256) = false ∧ Instr.WellFormed (.wr8 0 255) = true := by decide
theorem test_wf_wr16 : Instr.WellFormed (.wr16 0 256) = false ∧ Instr.WellFormed (.wr16 0 255) = true := by decide
theorem test_wf_wr32 : Instr.WellFormed (.wr32 0 256) = false ∧ Instr.WellFormed (.wr32 0 255) = true := by decide
theorem test_wf_wr64 : Instr.WellFormed (.wr64 0 256) = false ∧ Instr.WellFormed (.wr64 0 255) = true := by decide
theorem test_encode_refuses_ill_formed : encode (.rdn 256) = none ∧ encode (.wr8 0xA3 1000) = none := by decide

/-! ### Decoding: words of `30_encoding.md` section 6 and of V-ENC, every constructor -/

theorem test_decode_open :
    decode 0x00000000000000000060 = .ok (.openConn .mostSignificantFirst true true) ∧
    decode 0x00000000000000000000 = .ok (.openConn .mostSignificantFirst false false) ∧
    decode 0x00000000000000000050 = .ok (.openConn .leastSignificantFirst false true) ∧
    decode 0x000000000000000000E0 = .ok (.openConn .mostSignificantFirst true true) := ⟨rfl, rfl, rfl, rfl⟩

theorem test_decode_close : decode 0x00000000000000000001 = .ok .closeConn := rfl

theorem test_decode_select :
    decode 0x00000000000000000002 = .ok .select ∧ decode 0xFFFFFFFFFFFFFFFFFF02 = .ok .select := ⟨rfl, rfl⟩

theorem test_decode_release : decode 0x00000000000000000003 = .ok .release := rfl

theorem test_decode_sync : decode 0x00000000000000000004 = .ok .sync := rfl

theorem test_decode_wrbit :
    decode 0x00000000000000010005 = .ok (.wrbit true) ∧ decode 0x000000000000FFFF0005 = .ok (.wrbit true) ∧
    decode 0x000000000000FFFE0005 = .ok (.wrbit false) := ⟨rfl, rfl, rfl⟩

theorem test_decode_rdbit : decode 0x00000000000000000006 = .ok .rdbit := rfl

theorem test_decode_rdn :
    decode 0x00000000000000000A07 = .ok (.rdn 10) ∧ decode 0x0000000000000000FF07 = .ok (.rdn 255) := ⟨rfl, rfl⟩

theorem test_decode_wr8 :
    decode 0x00000000000000A30808 = .ok (.wr8 0xA3 8) ∧ decode 0xFFFFFFFFFFFFFFA30808 = .ok (.wr8 0xA3 8) := ⟨rfl, rfl⟩

theorem test_decode_wr16 : decode 0x00000000000012340C09 = .ok (.wr16 0x1234 12) := rfl

theorem test_decode_wr32 : decode 0x00000000DEADBEEF200A = .ok (.wr32 0xDEADBEEF 32) := rfl

theorem test_decode_wr64 : decode 0x0123456789ABCDEF400B = .ok (.wr64 0x0123456789ABCDEF 64) := rfl

theorem test_decode_reserved :
    decode 0x0000000000000000000C = .error (.reservedOp 0xC) ∧
    decode 0x0000000000000000FF0F = .error (.reservedOp 0xF) ∧
    decodeTableWord 80 0xC = none := ⟨rfl, rfl, rfl⟩

theorem test_encode_words :
    encode (.openConn .leastSignificantFirst true true) = some 0x00000000000000000070 ∧
    encode (.wrbit true) = some 0x00000000000000010005 ∧ encode (.rdn 10) = some 0x00000000000000000A07 ∧
    encode (.wr16 0x1234 12) = some 0x00000000000012340C09 ∧
    encode (.wr64 0x0123456789ABCDEF 64) = some 0x0123456789ABCDEF400B := by decide

theorem test_decodeTableWord : decodeTableWord 80 0x00000000000000A30808 = some (.wr8 0xA3 8) := rfl

/-- Two rows of the opcode table never match the same word: the masks are equal and the patterns differ. -/
theorem test_opcodeTable_rows_disjoint :
    opcodeTable.Pairwise fun a b => a.mask = b.mask ∧ a.pattern ≠ b.pattern := by decide

/-! ### Codes of the registers and of the response (rules R22, R23, R25, R30, R90; section 6 of `30_encoding.md`) -/

theorem test_register_codes :
    Life.opened.code = 1 ∧ Life.closed.code = 2 ∧ Sel.selected.code = 1 ∧ Kind.write.code = 1 ∧ Kind.read.code = 2 ∧
    Cfg.code ⟨.leastSignificantFirst, false, false⟩ = 1 ∧ Cfg.code ⟨.mostSignificantFirst, true, false⟩ = 2 ∧
    Cfg.code ⟨.mostSignificantFirst, false, true⟩ = 4 := by decide

theorem test_response_words :
    Response.word ⟨.ok, 0x2A⟩ = 0x000000000000002A0 ∧ Response.word ⟨.unsupportedOperation, 0⟩ = 1 ∧
    Response.word ⟨.invalidArgument, 0⟩ = 2 ∧ Response.word ⟨.illegalState, 0⟩ = 3 ∧
    Response.word ⟨.illegalCommand, 0⟩ = 4 := by decide

theorem test_response_words_never_produced : Response.ofWord 5 = none ∧ Response.ofWord 0xF = none := ⟨rfl, rfl⟩

theorem test_ports_of_an_open_connection :
    (openState .mostSignificantFirst true true).lineReg .clk = .driven false ∧
    (openState .mostSignificantFirst true true).dinOwned = true ∧
    (openState .mostSignificantFirst true true).cmdReady = true ∧
    (runningState .pulse .pDwell 0 1).cmdReady = false ∧ (runningState .pulse .pDwell 0 1).dlyReq = true := by decide

/-! ### The text syntax (rule R95 and section 6 of `30_encoding.md`) -/

theorem test_assemble :
    assemble "OPEN msf, dout, din".toList = some 0x00000000000000000060 ∧
    assemble "SELECT".toList = some 0x00000000000000000002 ∧
    assemble "WR16 0x1234, 12".toList = some 0x00000000000012340C09 ∧
    assemble "WR32 0xDEADBEEF, 32".toList = some 0x00000000DEADBEEF200A ∧
    assemble "WR8 0x06, 3".toList = some 0x00000000000000060308 := by decide

theorem test_render :
    Response.render ⟨.ok, 0x2A⟩ = "-> OK 0x2A".toList ∧
    Response.render ⟨.unsupportedOperation, 0⟩ = "-> UnsupportedOperation".toList ∧
    renderCommand (.wr8 0xA3 8) = "WR8 0xA3, 8".toList ∧
    renderCommand (.openConn .leastSignificantFirst false true) = "OPEN lsf, din".toList := by decide

/-! ### One step of each command -/

/-- V-LC1, run as a step from reset with the word at the port. -/
theorem test_open_step :
    after (step (State.reset.withFetchWord 80 0x60)) (fun t => (t.trace, t.life, t.seln, lastResponse t)) =
      some ([.write .clk false, .write .sel true, .write .dout false], .opened, .driven true, some ⟨.ok, 0⟩) := by decide

/-- V-LC5. -/
theorem test_open_twice :
    after (exec (.openConn .leastSignificantFirst false false) (openState .mostSignificantFirst true true))
      (fun t => (t.cfg, t.dout, lastResponse t)) =
      some (⟨.mostSignificantFirst, true, true⟩, .driven false, some ⟨.illegalState, 0⟩) := by decide

/-- V-LC6. -/
theorem test_close :
    seen .closeConn (openState .mostSignificantFirst true true) =
      some ([.rel .clk, .rel .sel, .rel .dout, .rel .din], some ⟨.ok, 0⟩) := by decide

/-- V-LC8: the data-out line is not given up where there is none. -/
theorem test_close_without_dout :
    seen .closeConn (openState .mostSignificantFirst false true) =
      some ([.rel .clk, .rel .sel, .rel .din], some ⟨.ok, 0⟩) := by decide

/-- V-SEL1. -/
theorem test_select :
    seen .select (openState .mostSignificantFirst true true) = some ([.write .sel false], some ⟨.ok, 0⟩) := by decide

/-- V-SEL3. -/
theorem test_select_twice : seen .select selectedState = some ([], some ⟨.illegalState, 0⟩) := by decide

/-- V-SEL2. -/
theorem test_release : seen .release selectedState = some ([.write .sel true], some ⟨.ok, 0⟩) := by decide

/-- V-SEL4. -/
theorem test_release_unpaired :
    seen .release (openState .mostSignificantFirst true true) = some ([], some ⟨.illegalState, 0⟩) := by decide

/-- V-CLK1. -/
theorem test_sync :
    seen .sync (openState .mostSignificantFirst false false) =
      some ([.write .clk true, .sleep, .write .clk false], some ⟨.ok, 0⟩) := by decide

/-- V-CLK5. -/
theorem test_sync_closed : seen .sync closedState = some ([], some ⟨.illegalState, 0⟩) := by decide

/-- V-W2. -/
theorem test_wrbit :
    seen (.wrbit true) (openState .mostSignificantFirst true false) =
      some ([.write .dout true, .write .clk true, .sleep, .write .clk false], some ⟨.ok, 0⟩) := by decide

/-- V-W4. -/
theorem test_wrbit_without_dout :
    seen (.wrbit true) (openState .mostSignificantFirst false true) = some ([], some ⟨.unsupportedOperation, 0⟩) := by
  decide

/-- V-W5 and V-W6. -/
theorem test_wr8_wire :
    wire (.wr8 0xA3 8) .mostSignificantFirst = some [true, true, false, false, false, true, false, true] ∧
    wire (.wr8 0xA3 8) .leastSignificantFirst = some [true, false, true, false, false, false, true, true] := by decide

/-- V-W18: the width is checked before the data-out line. -/
theorem test_wr8_width_before_presence :
    seen (.wr8 0xA3 9) (openState .mostSignificantFirst false false) = some ([], some ⟨.invalidArgument, 0⟩) := by decide

/-- V-W22. -/
theorem test_wr16_wire :
    wire (.wr16 0x1234 12) .leastSignificantFirst =
      some [false, false, true, false, false, false, true, true, false, true, false, false] := by decide

/-- V-W28. -/
theorem test_wr32_wire :
    wire (.wr32 0x00000005 3) .mostSignificantFirst = some [true, false, true] ∧
    wire (.wr32 0x00000005 3) .leastSignificantFirst = some [true, false, true] := by decide

/-- V-W29. -/
theorem test_wr32_width :
    seen (.wr32 0xDEADBEEF 33) (openState .mostSignificantFirst true false) = some ([], some ⟨.invalidArgument, 0⟩) := by
  decide

/-- V-W32. -/
theorem test_wr64_wire :
    wire (.wr64 0x0123456789ABCDEF 16) .leastSignificantFirst =
      some [true, true, false, false, true, true, false, true, true, true, true, false, true, true, true, true] := by
  decide

/-- V-RD2. -/
theorem test_rdbit :
    seen .rdbit (openState .mostSignificantFirst false true [true]) =
      some ([.write .clk true, .sleep, .write .clk false, .read true], some ⟨.ok, 1⟩) := by decide

/-- V-RD4. -/
theorem test_rdbit_without_din :
    seen .rdbit (openState .mostSignificantFirst true false) = some ([], some ⟨.unsupportedOperation, 0⟩) := by decide

/-- V-RD10 and V-RD11. -/
theorem test_rdn_data :
    after (exec (.rdn 5) (openState .mostSignificantFirst false true [true, false, true, true, false])) lastResponse =
      some (some ⟨.ok, 0xD⟩) ∧
    after (exec (.rdn 5) (openState .leastSignificantFirst false true [true, false, true, true, false])) lastResponse =
      some (some ⟨.ok, 0x16⟩) := by decide

/-- V-RD6: no bit needs no data-in line. -/
theorem test_rdn_zero :
    seen (.rdn 0) (openState .mostSignificantFirst false false) = some ([], some ⟨.ok, 0⟩) := by decide

/-- V-ERR1: the op code is looked at before `LIFE`. -/
theorem test_reserved_step :
    after (step (presenting State.reset 0xC)) (fun t => (t.life, t.trace, lastResponse t)) =
      some (.unopened, [], some ⟨.illegalCommand, 0⟩) := by decide

/-- Rule R156: two rows of the phase table, and the last bit of a pulse. -/
theorem test_phase_rows :
    after (step (runningState .write .wData 0 3)) (fun t => (t.dout, t.phase)) = some (.driven true, .pHigh) ∧
    after (step (runningState .read .pLow 0 3)) (fun t => (t.clk, t.phase)) = some (.driven false, .rSample) ∧
    after (step (runningState .pulse .pLow 0 1)) (fun t => (t.busy, t.phase, lastResponse t)) =
      some (false, .idle, some ⟨.ok, 0⟩) := by decide

/-- Rules R56, R81: at `P_DWELL` the sequencer waits for `dly_ack`, and `SLEEP` is appended when it comes. -/
theorem test_delay :
    after (step { runningState .pulse .pDwell 0 1 with delays := [1] })
      (fun t => (t.phase, t.trace.length, t.dlyReq, t.dlyAck)) = some (.pDwell, 3, true, true) ∧
    after (step { runningState .pulse .pDwell 0 1 with delays := [0] })
      (fun t => (t.phase, t.trace.getLast?, t.dlyReq)) = some (.pLow, some .sleep, false) ∧
    ({ runningState .pulse .pDwell 0 1 with delays := [1] } : State).dlyAck = false := by decide

/-- Rule R250: OPEN, SELECT, CLOSE ends at fault though every response is OK; a wrong entry point is at fault too; a
selection that was never released keeps a run from being safe. -/
theorem test_duties :
    after (exec .closeConn selectedState) (fun t => (lastResponse t, t.programAtFault)) = some (some ⟨.ok, 0⟩, true) ∧
    after (exec (.wr8 0xA3 9) selectedState) State.programAtFault = some true ∧
    after (exec .closeConn (openState .mostSignificantFirst true true)) State.programAtFault = some false ∧
    selectedState.programAtFault = false ∧ selectedState.releaseOwed = true := by decide

/-- Rule R156: a sample goes to bit `index(CNT, N, order)` of `ACC`. -/
theorem test_phase_sample :
    after (step (runningState .read .rSample 0 3)) (fun t => (t.acc, t.cnt, t.phase)) = some (4, 1, .pHigh) := by decide

/-! ### States that meet the invariant -/

theorem inv_unopened (words : List CmdWord) (rst : Bool) : Inv { State.reset with cmds := words, rst := rst } :=
  ⟨⟨rfl, rfl, rfl⟩, fun _ => ⟨rfl, rfl, rfl, rfl, rfl⟩, fun h => absurd h (by simp [State.reset]), fun h => absurd h (by simp [State.reset]),
    fun _ => ⟨rfl, fun h => absurd h (by simp [State.reset])⟩, fun h => absurd h (by simp [State.reset])⟩

theorem inv_opened (words : List CmdWord) (order : BitOrder) (hasDout hasDin : Bool) :
    Inv { openState order hasDout hasDin with cmds := words } := by
  cases hasDout <;>
    exact ⟨⟨rfl, rfl, rfl⟩, fun h => absurd h (by simp [openState]), fun _ => ⟨rfl, by simp [openState]⟩,
      fun h => absurd h (by simp [openState]), fun _ => ⟨rfl, fun _ => rfl⟩,
      fun h => absurd h (by simp [openState, State.reset])⟩

theorem inv_selected (words : List CmdWord) : Inv { selectedState with cmds := words } :=
  ⟨⟨rfl, rfl, rfl⟩, fun h => absurd h (by simp [selectedState, openState]),
    fun _ => ⟨rfl, by simp [selectedState, openState]⟩, fun h => absurd h (by simp [selectedState, openState]),
    fun _ => ⟨rfl, fun _ => rfl⟩, fun h => absurd h (by simp [selectedState, openState, State.reset])⟩

theorem inv_closed (words : List CmdWord) : Inv { closedState with cmds := words } :=
  ⟨⟨rfl, rfl, rfl⟩, fun h => absurd h (by simp [closedState]), fun h => absurd h (by simp [closedState]),
    fun _ => ⟨rfl, rfl, rfl, rfl⟩, fun _ => ⟨rfl, fun h => absurd h (by simp [closedState])⟩,
    fun h => absurd h (by simp [closedState, State.reset])⟩

/-- The first bit of a write, and the last bit of the longest read, each before its first primitive. -/
theorem inv_running :
    Inv (runningState .write .wData 0 1) ∧ Inv (runningState .read .pHigh 63 64) ∧
    Inv (runningState .read .rSample 63 64) := by
  refine ⟨?_, ?_, ?_⟩ <;>
    exact ⟨⟨rfl, rfl, rfl⟩, fun h => absurd h (by decide), fun _ => ⟨rfl, .inr rfl⟩, fun h => absurd h (by decide),
      fun h => absurd h (by decide), fun _ => ⟨rfl, by decide, by decide, by decide, by decide, by decide, by decide,
        by decide, rfl⟩⟩

/-- In the high phase of a pulse the clock is high. -/
theorem inv_running_high :
    Inv { runningState .pulse .pDwell 0 1 with
      clk := .driven true
      trace := [.write .clk false, .write .sel true, .write .dout false, .write .clk true] } :=
  ⟨⟨rfl, rfl, rfl⟩, fun h => absurd h (by decide), fun _ => ⟨rfl, .inr rfl⟩, fun h => absurd h (by decide),
    fun h => absurd h (by decide), fun _ => ⟨rfl, by decide, by decide, by decide, by decide, by decide, by decide,
      by decide, rfl⟩⟩

/-! ### Witnesses: for each statement with hypotheses, states and operands that meet them together

A command's own next state is said to exist by `after … = some …`, which is some value exactly when `exec` or `step`
answers a next state. -/

theorem after_some {α : Type} {o : Host.Outcome State Fault Refusal} {f : State → α} {a : α} (h : after o f = some a) :
    ∃ t, o = .next t ∧ f t = a := by
  cases o with
  | next s => exact ⟨s, rfl, Option.some.inj h⟩
  | fault r => exact absurd h (by simp [after])
  | refused r => exact absurd h (by simp [after])

theorem witness_ResetLandsInEveryState : ({ runningState .read .pDwell 63 64 with rst := true } : State).rst = true := rfl

theorem witness_OpenConstructsTheConnection :
    State.reset.life = .unopened ∧ (openState .mostSignificantFirst true true).life ≠ .unopened ∧
    closedState.life ≠ .unopened := by decide

theorem witness_IdleInvariantAfterOpen : Inv State.reset ∧ State.reset.life = .unopened := ⟨inv_unopened [] false, rfl⟩

theorem witness_CloseReleasesTheLines :
    selectedState.life = .opened ∧ (openState .leastSignificantFirst false false).life = .opened ∧
    State.reset.life ≠ .opened ∧ closedState.life ≠ .opened := by decide

theorem witness_NothingRunsOutsideAnOpenConnection :
    (State.reset.life ≠ .opened ∧ ∀ o d r, Instr.sync = .openConn o d r → State.reset.life = .closed) ∧
    (closedState.life ≠ .opened ∧
      ∀ o d r, Instr.openConn .mostSignificantFirst true true = .openConn o d r → closedState.life = .closed) :=
  ⟨⟨by decide, by simp⟩, ⟨by decide, fun _ _ _ _ => rfl⟩⟩

/-- A word that would open, a reserved word, and no word. -/
theorem witness_ClosedIsLeftOnlyByReset :
    (∀ words, Inv { closedState with cmds := words }) ∧ closedState.life = .closed ∧ closedState.rst = false ∧
    (∃ t, step { closedState with cmds := [0x60] } = .next t) ∧
    (∃ t, step { closedState with cmds := [0xC] } = .next t) ∧ ∃ t, step { closedState with cmds := [] } = .next t :=
  ⟨inv_closed, rfl, rfl, ⟨_, rfl⟩, ⟨_, rfl⟩, ⟨_, rfl⟩⟩

theorem witness_NothingIsDrivenOutsideAnOpenConnection :
    (Inv State.reset ∧ State.reset.life ≠ .opened) ∧ Inv closedState ∧ closedState.life ≠ .opened :=
  ⟨⟨inv_unopened [] false, by decide⟩, inv_closed [], by decide⟩

theorem witness_SelectDrivesSelectLow :
    ((openState .mostSignificantFirst true true).life = .opened ∧
      (openState .mostSignificantFirst true true).sel = .deselected) ∧
    selectedState.sel = .selected ∧ State.reset.life ≠ .opened := by decide

theorem witness_ReleaseDrivesSelectHigh :
    (selectedState.life = .opened ∧ selectedState.sel = .selected) ∧
    (openState .mostSignificantFirst true true).sel = .deselected ∧ closedState.life ≠ .opened := by decide

/-- One state for each row of the table. -/
theorem witness_SelectStateMachineFollowsItsTable :
    (∃ t, exec .select (openState .mostSignificantFirst true true) = .next t) ∧
    (∃ t, exec .release selectedState = .next t) ∧ (∃ t, exec .select selectedState = .next t) ∧
    (∃ t, exec .release (openState .mostSignificantFirst true true) = .next t) ∧
    (∃ t, exec (.openConn .mostSignificantFirst true true) State.reset = .next t) ∧
    (∃ t, exec (.wr8 0xA3 8) selectedState = .next t) ∧ ∃ t, exec .closeConn selectedState = .next t :=
  ⟨⟨_, rfl⟩, ⟨_, rfl⟩, ⟨_, rfl⟩, ⟨_, rfl⟩, ⟨_, rfl⟩, ⟨_, rfl⟩, ⟨_, rfl⟩⟩

theorem witness_SelectStateGatesNoTransfer :
    (∃ t, exec (.wr8 0xA3 8) (openState .mostSignificantFirst true false) = .next t) ∧
    (∃ t, exec .sync selectedState = .next t) ∧ (∃ t, exec (.rdn 65) State.reset = .next t) ∧
    (∃ t, exec .closeConn selectedState = .next t) ∧ State.reset.life = .unopened :=
  ⟨⟨_, rfl⟩, ⟨_, rfl⟩, ⟨_, rfl⟩, ⟨_, rfl⟩, rfl⟩

/-- A body with a failing command in it, and the empty body. -/
theorem witness_GuardDeassertsSelectExactlyOnce :
    (openState .mostSignificantFirst true true).life = .opened ∧
    (openState .mostSignificantFirst true true).sel = .deselected ∧
    (∀ i ∈ [Instr.wr8 0xA3 9, .sync, .select, .openConn .mostSignificantFirst true true],
      i ≠ .release ∧ i ≠ .closeConn) ∧
    ∀ i ∈ ([] : List Instr), i ≠ .release ∧ i ≠ .closeConn := by decide

theorem witness_WithSelDeassertsSelectExactlyOnce :
    (openState .leastSignificantFirst false true).life = .opened ∧
    (openState .leastSignificantFirst false true).sel = .deselected ∧
    ∀ i ∈ [Instr.wrbit true, .rdn 3], i ≠ .release ∧ i ≠ .closeConn := by decide

theorem witness_SyncPulsesTheClockOnce :
    (openState .mostSignificantFirst false false).life = .opened ∧ State.reset.life ≠ .opened := by decide

theorem witness_EveryStepKeepsThePulseShape :
    (presenting selectedState 0x4).busy = false ∧ pulsesShaped (presenting selectedState 0x4).trace = true ∧
    ∃ t, step (presenting selectedState 0x4) = .next t := ⟨rfl, rfl, ⟨_, rfl⟩⟩

/-- No bit, one bit, and a full width. -/
theorem witness_TransferTakesNDwells :
    firstError (.rdn 0) (openState .mostSignificantFirst false false) = none ∧
    firstError (.rdn 64) (openState .mostSignificantFirst false true) = none ∧
    firstError (.wr8 0xA3 1) selectedState = none ∧ firstError (.wr16 1 16) selectedState = none ∧
    firstError (.wr32 1 32) selectedState = none ∧ firstError (.wr64 1 64) selectedState = none ∧
    (∃ t, exec (.rdn 0) (openState .mostSignificantFirst false false) = .next t) ∧
    ∃ t, exec (.wr8 0xA3 1) selectedState = .next t :=
  ⟨rfl, rfl, rfl, rfl, rfl, rfl, ⟨_, rfl⟩, ⟨_, rfl⟩⟩

theorem witness_PrimitiveCountsFollowTheTable :
    (∃ t, exec .closeConn selectedState = .next t) ∧ firstError .closeConn selectedState = none ∧
    (∃ t, exec .select selectedState = .next t) ∧ firstError .select selectedState ≠ none :=
  ⟨⟨_, rfl⟩, rfl, ⟨_, rfl⟩, by decide⟩

theorem witness_WrbitWritesOneBit :
    (selectedState.life = .opened ∧ selectedState.cfg.hasDout = true) ∧ State.reset.life ≠ .opened ∧
    (openState .mostSignificantFirst false true).life = .opened ∧
    (openState .mostSignificantFirst false true).cfg.hasDout = false := by decide

/-- No bit without a data-out line; each full width with one. -/
theorem witness_WideWritesSendTheirBits :
    ((openState .mostSignificantFirst false true).life = .opened ∧
      ((0 : Nat) = 0 ∨ (openState .mostSignificantFirst false true).cfg.hasDout = true)) ∧
    (selectedState.life = .opened ∧ ∀ n ∈ [1, 8, 16, 32, 64], n = 0 ∨ selectedState.cfg.hasDout = true) := by decide

/-- Each clause at its boundary counts: the width and one more. -/
theorem witness_WideWritesFailWithoutEffect :
    (State.reset.life ≠ .opened ∧ closedState.life ≠ .opened) ∧
    (selectedState.life = .opened ∧ 8 < 9 ∧ 16 < 17 ∧ 32 < 33 ∧ 64 < 65) ∧
    (openState .mostSignificantFirst false true).life = .opened ∧
    (openState .mostSignificantFirst false true).cfg.hasDout = false ∧
    ∀ width ∈ [8, 16, 32, 64], ∀ n ∈ [1, 8], 1 ≤ n ∧ n ≤ width := by decide

/-- Two values with the same low bits, and no bit at all. -/
theorem witness_OnlyTheLowBitsTravel :
    8 ≤ 64 ∧ (∀ k, k < 8 → (0x1A3 : BitVec 64).getLsbD k = (0xA3 : BitVec 64).getLsbD k) ∧
    ∀ k, k < 0 → (0 : BitVec 64).getLsbD k = (1 : BitVec 64).getLsbD k := by decide

theorem witness_BitOrdersMirrorEachOther :
    selectedState.life = .opened ∧ selectedState.cfg.hasDout = true ∧ 8 ≤ 8 ∧ 0 ≤ 8 := by decide

theorem witness_WideWriteIsItsBitsOneAtATime :
    (openState .leastSignificantFirst true false).life = .opened ∧
    (openState .leastSignificantFirst true false).cfg.hasDout = true := by decide

theorem witness_RdbitReadsOneBit :
    (selectedState.life = .opened ∧ selectedState.cfg.hasDin = true) ∧ closedState.life ≠ .opened ∧
    (openState .mostSignificantFirst true false).life = .opened ∧
    (openState .mostSignificantFirst true false).cfg.hasDin = false := by decide

/-- No bit without a data-in line; one bit and 64 with one. -/
theorem witness_RdnAssemblesItsSamples :
    ((openState .mostSignificantFirst true false).life = .opened ∧ 0 ≤ 64 ∧
      ((0 : Nat) = 0 ∨ (openState .mostSignificantFirst true false).cfg.hasDin = true)) ∧
    (selectedState.life = .opened ∧ ∀ n ∈ [1, 64], n ≤ 64 ∧ (n = 0 ∨ selectedState.cfg.hasDin = true)) := by decide

theorem witness_RdnFailsWithoutEffect :
    (State.reset.life ≠ .opened) ∧ (selectedState.life = .opened ∧ 64 < 65) ∧
    (openState .mostSignificantFirst true false).life = .opened ∧
    (openState .mostSignificantFirst true false).cfg.hasDin = false ∧ ∀ n ∈ [1, 64], 1 ≤ n ∧ n ≤ 64 := by decide

theorem witness_WideReadIsItsBitsOneAtATime :
    selectedState.life = .opened ∧ selectedState.cfg.hasDin = true ∧ 64 ≤ 64 := by decide

/-- Both peripherals: one that plays the wire bits back, and one that holds the last of them. -/
theorem witness_ReadAfterWriteThroughAnEcho :
    selectedState.life = .opened ∧ selectedState.cfg.hasDout = true ∧ selectedState.cfg.hasDin = true ∧
    ({ selectedState with din := ⟨[true, true, false, false, false], 0⟩ } : State).din.answers =
      wireBits (0xA3 : BitVec 8) 5 selectedState.cfg.order ++ [] ∧
    (wireBits (0xA3 : BitVec 8) 5 selectedState.cfg.order).getLast? = some false ∧
    ({ selectedState with din := ⟨[false, false, false, false, false], 0⟩ } : State).din.answers =
      List.replicate 5 false ++ [] := by decide

theorem witness_BitOrderPlaysNoPartInOneBitCommands :
    (∃ t, exec .closeConn selectedState = .next t) ∧ (∃ t, exec .rdbit selectedState = .next t) ∧
    (∃ t, exec (.wrbit true) selectedState = .next t) ∧ (∃ t, exec .sync selectedState = .next t) ∧
    (∃ t, exec .select State.reset = .next t) ∧ ∃ t, exec .release selectedState = .next t :=
  ⟨⟨_, rfl⟩, ⟨_, rfl⟩, ⟨_, rfl⟩, ⟨_, rfl⟩, ⟨_, rfl⟩, ⟨_, rfl⟩⟩

theorem witness_ConfigurationIsImmutable :
    (∃ t, exec (.openConn .leastSignificantFirst true false) State.reset = .next t) ∧
    ∃ t, exec .closeConn selectedState = .next t := ⟨⟨_, rfl⟩, ⟨_, rfl⟩⟩

/-- A transfer that succeeds and one that fails, the clock low before. -/
theorem witness_TransfersLeaveTheRestAlone :
    (∃ t, exec (.wr16 0x1234 12) selectedState = .next t) ∧ (∃ t, exec (.rdn 65) selectedState = .next t) ∧
    (∃ t, exec .sync selectedState = .next t) ∧ selectedState.clk = .driven false ∧ Instr.wr16 0x1234 12 ≠ .rdbit ∧ ∀ n, Instr.wr16 0x1234 12 ≠ .rdn n :=
  ⟨⟨_, rfl⟩, ⟨_, rfl⟩, ⟨_, rfl⟩, rfl, by decide, by simp⟩

/-- A command, a failing command, and a reserved word. -/
theorem witness_FirstFailingCheckDecidesTheResponse :
    selectedState.rst = false ∧ selectedState.busy = false ∧ (presenting selectedState 0x4).cmds = 0x4 :: [] ∧
    (presenting selectedState 0xA30908).cmds = 0xA30908 :: [] ∧ (presenting selectedState 0xC).cmds = 0xC :: [] :=
  ⟨rfl, rfl, rfl, rfl, rfl⟩

theorem witness_FailedCommandHasNoEffect :
    ∃ t, exec (.wr8 0xA3 9) selectedState = .next t ∧
      t.responses = selectedState.responses ++ [⟨.invalidArgument, 0⟩] ∧ Status.invalidArgument ≠ .ok :=
  ⟨_, rfl, rfl, by decide⟩

/-- One state for each clause: an error of each kind, CLOSE while selected, already at fault for either reason, none of
these, and a reserved word. -/
theorem witness_BrokenDutiesPutTheProgramAtFault :
    ((∃ t, exec .select selectedState = .next t) ∧ firstError .select selectedState = some .illegalState) ∧
    ((∃ t, exec (.wr8 0xA3 9) selectedState = .next t) ∧ firstError (.wr8 0xA3 9) selectedState = some .invalidArgument) ∧
    ((∃ t, exec .rdbit (openState .mostSignificantFirst true false) = .next t) ∧
      firstError .rdbit (openState .mostSignificantFirst true false) = some .unsupportedOperation) ∧
    ((∃ t, exec .closeConn selectedState = .next t) ∧ selectedState.sel = .selected) ∧
    ((∃ t, exec .sync { selectedState with responses := [⟨.invalidArgument, 0⟩] } = .next t) ∧
      ({ selectedState with responses := [⟨.invalidArgument, 0⟩] } : State).programAtFault = true) ∧
    ((∃ t, exec .sync { closedState with sel := .selected } = .next t) ∧
      ({ closedState with sel := .selected } : State).programAtFault = true) ∧
    ((∃ t, exec .closeConn (openState .mostSignificantFirst true true) = .next t) ∧
      (openState .mostSignificantFirst true true).programAtFault = false ∧
      firstError .closeConn (openState .mostSignificantFirst true true) = none ∧
      (openState .mostSignificantFirst true true).sel = .deselected) ∧
    ((presenting closedState 0xC).rst = false ∧ (presenting closedState 0xC).busy = false ∧
      (presenting closedState 0xC).cmds = 0xC :: [] ∧ 0xC ≤ (opField 0xC).toNat) :=
  ⟨⟨⟨_, rfl⟩, rfl⟩, ⟨⟨_, rfl⟩, rfl⟩, ⟨⟨_, rfl⟩, rfl⟩, ⟨⟨_, rfl⟩, rfl⟩, ⟨⟨_, rfl⟩, rfl⟩, ⟨⟨_, rfl⟩, rfl⟩,
    ⟨⟨_, rfl⟩, rfl, rfl, rfl⟩, rfl, rfl, rfl, by decide⟩

/-- The largest count the field holds. -/
theorem witness_DecodeOfEncodeIsTheCommand :
    Instr.WellFormed (.wr64 0x0123456789ABCDEF 255) = true ∧ Instr.WellFormed (.rdn 0) = true := by decide

/-- A word with bits in fields its command does not use. -/
theorem witness_EncodeOfDecodeIsTheUsedBits :
    decode 0xFFFFFFFFFFFFFFFFFF02 = .ok .select ∧ decode 0xFFFFFFFFFFFFFFA30808 = .ok (.wr8 0xA3 8) := ⟨rfl, rfl⟩

theorem witness_ReservedOpEndsInIllegalCommand :
    (0xC ≤ (opField 0x0000000000000000000C).toNat ∧ 0xC ≤ (opField 0x0000000000000000FF0F).toNat) ∧
    closedState.rst = false ∧ closedState.busy = false ∧ (presenting closedState 0xC).cmds = 0xC :: [] := by decide

theorem witness_StepRunsTheDecodedCommand :
    selectedState.rst = false ∧ selectedState.busy = false ∧
    (presenting selectedState 0xA30808).cmds = 0xA30808 :: [] ∧ decode 0xA30808 = .ok (.wr8 0xA3 8) :=
  ⟨rfl, rfl, rfl, rfl⟩

theorem witness_IdleBlockDoesNothing :
    selectedState.rst = false ∧ selectedState.busy = false ∧ selectedState.cmds = [] := ⟨rfl, rfl, rfl⟩

theorem witness_BusyBlockAcceptsNoCommand :
    (runningState .read .rSample 63 64).rst = false ∧ (runningState .read .rSample 63 64).busy = true ∧
    ∃ t, step (runningState .read .rSample 63 64) = .next t := ⟨rfl, rfl, ⟨_, rfl⟩⟩

/-- The first of several bits and the last of 64. -/
theorem witness_RunningCommandFollowsThePhaseTable :
    ∀ (phase : Phase) (kind : Kind),
      (∀ p ∈ [((0 : BitVec 7), (2 : BitVec 8)), (63, 64)], p.1.toNat < p.2.toNat ∧ p.2.toNat ≤ 64) ∧
      ∀ cnt n, (runningState kind phase cnt n).rst = false ∧ (runningState kind phase cnt n).busy = true ∧
        (runningState kind phase cnt n).cnt = cnt ∧ (runningState kind phase cnt n).n = n ∧
        (runningState kind phase cnt n).phase = phase ∧ (runningState kind phase cnt n).kind = kind :=
  fun _ _ => ⟨by simp, fun _ _ => ⟨rfl, rfl, rfl, rfl, rfl, rfl⟩⟩

/-- The delay primitive answers at once where nothing is listed or 0 is, and holds off where more is. -/
theorem witness_delay_clauses :
    (runningState .read .pDwell 0 2).delays.headD 0 = 0 ∧
    ({ runningState .read .pDwell 0 2 with delays := [0, 7] } : State).delays.headD 0 = 0 ∧
    ({ runningState .read .pDwell 0 2 with delays := [1] } : State).delays = (0 + 1) :: [] := ⟨rfl, rfl, rfl⟩

/-- "Next bit" has a bit to come from the first of two bits, and none from the last of 64. -/
theorem witness_NextBit :
    (runningState .read .rSample 0 2).cnt.toNat + 1 < (runningState .read .rSample 0 2).n.toNat ∧
    (runningState .read .rSample 63 64).cnt.toNat + 1 = (runningState .read .rSample 63 64).n.toNat := by decide

/-- Each row of the second table of rule R156; a transfer of some bits and one of none. -/
theorem witness_TransferBeginsOnTheSequencer :
    (SequencerRow .sync .pulse 1 none ∧ firstError .sync selectedState = none) ∧
    (SequencerRow (.wrbit true) .write 1 (some 1) ∧ firstError (.wrbit true) selectedState = none) ∧
    (SequencerRow (.wr8 0xA3 8) .write 8 (some 0xA3) ∧ firstError (.wr8 0xA3 8) selectedState = none) ∧
    (SequencerRow (.wr16 1 16) .write 16 (some 1) ∧ firstError (.wr16 1 16) selectedState = none) ∧
    (SequencerRow (.wr32 1 32) .write 32 (some 1) ∧ firstError (.wr32 1 32) selectedState = none) ∧
    (SequencerRow (.wr64 1 64) .write 64 (some 1) ∧ firstError (.wr64 1 64) selectedState = none) ∧
    (SequencerRow .rdbit .read 1 none ∧ firstError .rdbit selectedState = none) ∧
    (SequencerRow (.rdn 0) .read 0 none ∧
      firstError (.rdn 0) (openState .mostSignificantFirst false false) = none) :=
  ⟨⟨.inl ⟨rfl, rfl, rfl, rfl⟩, rfl⟩, ⟨.inr (.inl ⟨true, rfl, rfl, rfl, rfl⟩), rfl⟩,
    ⟨.inr (.inr (.inl ⟨0xA3, rfl, rfl, rfl⟩)), rfl⟩, ⟨.inr (.inr (.inr (.inl ⟨1, rfl, rfl, rfl⟩))), rfl⟩,
    ⟨.inr (.inr (.inr (.inr (.inl ⟨1, rfl, rfl, rfl⟩)))), rfl⟩,
    ⟨.inr (.inr (.inr (.inr (.inr (.inl ⟨1, rfl, rfl, rfl⟩))))), rfl⟩,
    ⟨.inr (.inr (.inr (.inr (.inr (.inr (.inl ⟨rfl, rfl, rfl, rfl⟩)))))), rfl⟩,
    ⟨.inr (.inr (.inr (.inr (.inr (.inr (.inr ⟨rfl, rfl, rfl⟩)))))), rfl⟩⟩

theorem witness_SequencerRefinesThePseudocode : (selectedState.accept []).busy = true := rfl

theorem witness_PhaseStepsAddUpToOneStep :
    (presenting selectedState 0xA30808).rst = false ∧ (presenting selectedState 0xA30808).busy = false := ⟨rfl, rfl⟩

/-- A command, a reset in the middle of a transfer, and a phase. -/
theorem witness_EveryStepKeepsInv :
    (Inv { selectedState with cmds := [0x4] } ∧ ∃ t, step { selectedState with cmds := [0x4] } = .next t) ∧
    (Inv { State.reset with cmds := [0x60], rst := true } ∧
      ∃ t, step { State.reset with cmds := [0x60], rst := true } = .next t) ∧
    Inv (runningState .read .rSample 63 64) ∧ ∃ t, step (runningState .read .rSample 63 64) = .next t :=
  ⟨⟨inv_selected [0x4], ⟨_, rfl⟩⟩, ⟨inv_unopened [0x60] true, ⟨_, rfl⟩⟩, inv_running.2.2, ⟨_, rfl⟩⟩

theorem witness_EveryPhaseStepKeepsInv :
    (Inv { selectedState with cmds := [0x4] } ∧ ∃ t, phaseStep { selectedState with cmds := [0x4] } = .next t) ∧
    Inv (runningState .write .wData 0 1) ∧ ∃ t, phaseStep (runningState .write .wData 0 1) = .next t :=
  ⟨⟨inv_selected [0x4], ⟨_, rfl⟩⟩, inv_running.1, ⟨_, rfl⟩⟩

theorem witness_InvStatesNeverStop :
    Inv (openState .leastSignificantFirst false true) ∧ Inv (runningState .read .pHigh 63 64) :=
  ⟨inv_opened [] .leastSignificantFirst false true, inv_running.2.1⟩

/-- After two steps of a program the Connection is open and the peripheral selected. -/
theorem witness_StateAtRestOfEveryProgram :
    ∃ t, Sys2Proof.core.run 2 { State.reset with cmds := [0x60, 0x2, 0x1], din := ⟨[true], 0⟩ } = .next t ∧
      t.life = .opened ∧ t.sel = .selected ∧ t.cfg.hasDout = true := ⟨_, rfl, rfl, rfl, rfl⟩

end Sys2Proof.Tests
end

section
/-! PROOFS. The family of `10_state.md`: what the state is after reset, what every step and every phase keep of it, and
what the commands leave unchanged. -/

namespace Sys2Proof.Machine

variable {s t : State}

/-! ### The Connection, apart from the sequencer -/

/-- The state of the Connection alone: what persists from one command to the next (rule R20) and the trace, the rest as
after reset. `Inv s.connection` says that the Connection is at rest, whatever `BUSY` and `PHASE` are: it holds of a state
that has just accepted a command, where `Inv` does not. -/
def State.connection (s : State) : State :=
  { State.reset with
    life := s.life
    cfg := s.cfg
    sel := s.sel
    clk := s.clk
    seln := s.seln
    dout := s.dout
    trace := s.trace }

/-- While no command runs the Connection is at rest. -/
theorem Inv.connection (h : Inv s) (hb : s.busy = false) : Inv s.connection where
  lines := ⟨h.lines.clk, h.lines.seln, h.lines.dout⟩
  unopened hu := { h.unopened hu with idle := rfl }
  opened ho := { h.opened ho with }
  closed hc := { h.closed hc with idle := rfl }
  rest _ := ⟨rfl, (h.rest hb).clock⟩
  running hr := nomatch hr

/-- With the Connection at rest and the sequencer idle the block meets the invariant. -/
theorem Inv.of_connection (h : Inv s.connection) (hb : s.busy = false) (hp : s.phase = .idle) : Inv s where
  lines := ⟨h.lines.clk, h.lines.seln, h.lines.dout⟩
  unopened hu := { h.unopened hu with idle := hb }
  opened ho := { h.opened ho with }
  closed hc := { h.closed hc with idle := hb }
  rest _ := ⟨hp, (h.rest rfl).clock⟩
  running hr := absurd hr (by simp [hb])

theorem inv_reset : Inv State.reset where
  lines := ⟨rfl, rfl, rfl⟩
  unopened _ := ⟨rfl, rfl, rfl, rfl, rfl⟩
  opened ho := nomatch ho
  closed hc := nomatch hc
  rest _ := ⟨rfl, nofun⟩
  running hr := nomatch hr

theorem inv_applyReset (s : State) : Inv s.applyReset :=
  .of_connection (inv_reset.connection rfl) rfl rfl

/-- A response leaves the Connection as it is. -/
theorem inv_finish (h : Inv s.connection) (r : Response) : Inv (s.finish r) := .of_connection h rfl rfl

/-- A command runs only while the Connection is open. -/
theorem Inv.busy_eq_false (h : Inv s) (hl : s.life ≠ .opened) : s.busy = false := by
  cases hb : s.busy
  · rfl
  · exact absurd (h.running hb).life hl

/-! ### An open Connection under the primitives -/

/-- What the invariant says of an open Connection in the middle of a transfer too: all but the level of the clock. -/
structure Connected (s : State) : Prop where
  life  : s.life = .opened
  lines : LinesFollowTrace s
  regs  : OpenState s

theorem Inv.connected (h : Inv s) (ho : s.life = .opened) : Connected s := ⟨ho, h.lines, h.opened ho⟩

/-- Only the Connection matters. -/
theorem Connected.congr (h : Connected s) (e : t.connection = s.connection) : Connected t := by
  have hs : Connected s.connection :=
    ⟨h.life, ⟨h.lines.clk, h.lines.seln, h.lines.dout⟩, ⟨h.regs.seln, h.regs.dout⟩⟩
  have ht : Connected t.connection := e ▸ hs
  exact ⟨ht.life, ⟨ht.lines.clk, ht.lines.seln, ht.lines.dout⟩, ⟨ht.regs.seln, ht.regs.dout⟩⟩

theorem Connected.lineWrite_clk (h : Connected s) (b : Bool) : Connected (s.lineWrite .clk b) :=
  ⟨h.life, h.lines.lineWrite .clk b, ⟨h.regs.seln, h.regs.dout⟩⟩

theorem Connected.lineWrite_dout (h : Connected s) (hd : s.cfg.hasDout = true) (b : Bool) :
    Connected (s.lineWrite .dout b) :=
  ⟨h.life, h.lines.lineWrite .dout b, ⟨h.regs.seln, by cases b <;> simp [hd]⟩⟩

theorem Connected.sleep (h : Connected s) : Connected s.sleep :=
  ⟨h.life, h.lines.sleep, ⟨h.regs.seln, h.regs.dout⟩⟩

theorem Connected.lineRead (h : Connected s) : Connected s.lineRead :=
  ⟨h.life, h.lines.lineRead, ⟨h.regs.seln, h.regs.dout⟩⟩

theorem Connected.pulse (h : Connected s) : Connected s.pulse :=
  ((h.lineWrite_clk true).sleep).lineWrite_clk false

theorem Connected.afterWrites (h : Connected s) (hd : s.cfg.hasDout = true) (bits : List Bool) :
    Connected (s.afterWrites bits) := by
  induction bits generalizing s with
  | nil => rwa [State.afterWrites_nil]
  | cons b bits ih =>
    rw [← State.afterWrites_cons]
    exact ih ((h.lineWrite_dout hd b).pulse) (by simpa using hd)

theorem Connected.afterReads (h : Connected s) (n : Nat) : Connected (s.afterReads n) := by
  induction n generalizing s with
  | zero => rwa [State.afterReads_zero]
  | succ n ih =>
    rw [← State.afterReads_succ]
    exact ih h.pulse.lineRead

/-- At the end of a command. -/
theorem Connected.inv_of_rest (h : Connected s) (e : t.connection = s.connection) (hb : t.busy = false)
    (hp : t.phase = .idle) (hc : t.clk = .driven false) : Inv t :=
  have ht : Connected t := h.congr e
  { lines := ht.lines
    unopened := fun hu => absurd (ht.life.symm.trans hu) (by decide)
    opened := fun _ => ht.regs
    closed := fun hl => absurd (ht.life.symm.trans hl) (by decide)
    rest := fun _ => ⟨hp, fun _ => hc⟩
    running := fun hr => absurd hr (by simp [hb]) }

/-- In the middle of a transfer. -/
theorem Connected.inv_of_running (h : Connected s) (e : t.connection = s.connection) (hb : t.busy = true)
    (r : RunningState t) : Inv t :=
  have ht : Connected t := h.congr e
  { lines := ht.lines
    unopened := fun hu => absurd (ht.life.symm.trans hu) (by decide)
    opened := fun _ => ht.regs
    closed := fun hl => absurd (ht.life.symm.trans hl) (by decide)
    rest := fun hr => absurd hr (by simp [hb])
    running := fun _ => r }

/-- A Connection at rest that is open, with its clock (rule R154). -/
theorem connected_of_connection (h : Inv s.connection) (ho : s.life = .opened) :
    Connected s ∧ s.clk = .driven false :=
  ⟨(h.connected ho).congr rfl, (h.rest rfl).clock ho⟩

/-! ### Whole commands -/

theorem LinesFollowTrace.idleDout (h : LinesFollowTrace s) (present : Bool) : LinesFollowTrace (s.idleDout present) := by
  cases present
  · exact h
  · exact h.lineWrite .dout false

theorem LinesFollowTrace.releaseIf (h : LinesFollowTrace s) (present : Bool) (l : Line) :
    LinesFollowTrace (s.releaseIf present l) := by
  cases present
  · exact h
  · exact h.lineRelease l

/-- OPEN that passes its check has `LIFE = Unopened`. -/
theorem unopened_of_firstError {order : BitOrder} {hasDout hasDin : Bool}
    (h : firstError (.openConn order hasDout hasDin) s = none) : s.life = .unopened := by
  unfold firstError at h
  split_ifs at h with h1
  simpa [lifeWrong] using h1

/-- A command that passes its checks moves no more bits than its width. -/
theorem countTooLarge_of_firstError {i : Instr} (h : firstError i s = none) : countTooLarge i = false := by
  unfold firstError at h
  split_ifs at h with h1 h2 h3
  simpa using h3

/-- Step 5 of rule R235 passed: there is no bit to move, or the line is present. -/
theorem present_of_not_absent {n : Nat} {present : Bool} (h : (decide (1 ≤ n) && !present) = false) :
    n = 0 ∨ present = true := by
  rcases Nat.eq_zero_or_pos n with h0 | hpos
  · exact .inl h0
  · exact .inr (by simpa [Nat.succ_le_of_lt hpos] using h)

/-- OPEN drives its lines from an Unopened block (rule R113). -/
theorem inv_completed_openConn (h : Inv s.connection) (hu : s.life = .unopened) (order : BitOrder)
    (hasDout hasDin : Bool) : Inv (s.completed (.openConn order hasDout hasDin)) := by
  have hl : LinesFollowTrace s := h.lines.of_eq rfl rfl rfl rfl
  have hd : s.dout = .undriven := (h.unopened hu).dout
  refine Connected.inv_of_rest ⟨rfl, ?_, ⟨rfl, ?_⟩⟩ rfl rfl rfl rfl
  · refine (((hl.lineWrite .clk false).lineWrite .sel true).idleDout hasDout).of_eq ?_ ?_ ?_ ?_ <;>
      simp [State.completed]
  · cases hasDout <;> simp [State.completed, hd]

/-- CLOSE releases the lines of an open Connection (rule R118). -/
theorem inv_completed_closeConn (h : Inv s.connection) (ho : s.life = .opened) : Inv (s.completed .closeConn) where
  lines := by
    have hl : LinesFollowTrace s := h.lines.of_eq rfl rfl rfl rfl
    refine ((((hl.lineRelease .clk).lineRelease .sel).releaseIf s.cfg.hasDout .dout).releaseIf
      s.cfg.hasDin .din).of_eq ?_ ?_ ?_ ?_ <;> simp [State.completed]
  unopened hu := nomatch hu
  opened ho := nomatch ho
  closed _ := by
    refine ⟨rfl, rfl, rfl, ?_⟩
    have hd := (connected_of_connection h ho).1.regs.dout
    cases hp : s.cfg.hasDout <;> simp_all [State.completed]
  rest _ := ⟨rfl, fun ho => nomatch ho⟩
  running hr := nomatch hr

/-- SELECT and RELEASE move the select line with `SEL`. -/
theorem Connected.inv_moveSelect (c : Connected s) (hc : s.clk = .driven false) {x : Sel} {t : State}
    (e : t.connection = ((s.lineWrite .sel (decide (x = .deselected))).setSel x).connection) (hb : t.busy = false)
    (hp : t.phase = .idle) : Inv t := by
  have hm : Connected ((s.lineWrite .sel (decide (x = .deselected))).setSel x) :=
    ⟨c.life, (c.lines.lineWrite .sel _).of_eq rfl rfl rfl rfl, ⟨rfl, c.regs.dout⟩⟩
  exact hm.inv_of_rest e hb hp ((congrArg State.clk e).trans hc)

/-- A write that passes its checks; with no bits nothing happens. -/
theorem inv_wroteBits (h : Inv s.connection) (ho : s.life = .opened) {width n : Nat} (v : BitVec width)
    (hd : n = 0 ∨ s.cfg.hasDout = true) : Inv (s.wroteBits v n) := by
  rcases hd with rfl | hd
  · exact .of_connection (by simpa [State.connection, State.wroteBits] using h) rfl rfl
  · obtain ⟨c, hc⟩ := connected_of_connection h ho
    refine (c.afterWrites hd (wireBits v n s.cfg.order)).inv_of_rest ?_ rfl rfl ?_
    · cases n <;> simp [State.connection, State.wroteBits, State.afterWrites, ← List.length_eq_zero_iff]
    · simp [State.wroteBits, hc]

/-- A read that passes its checks. -/
theorem inv_didRead (h : Inv s.connection) (ho : s.life = .opened) (n : Nat) : Inv (s.didRead n) := by
  obtain ⟨c, hc⟩ := connected_of_connection h ho
  exact (c.afterReads n).inv_of_rest rfl rfl rfl (by simp [State.didRead, hc])

/-- SYNC that passes its check. -/
theorem inv_completed_sync (h : Inv s.connection) (ho : s.life = .opened) : Inv (s.completed .sync) := by
  refine (connected_of_connection h ho).1.pulse.inv_of_rest ?_ rfl rfl rfl
  simp [State.connection, State.completed]

/-- A command that passes its checks leaves a state that meets the invariant. -/
theorem inv_completed (h : Inv s.connection) {i : Instr} (he : firstError i s = none) : Inv (s.completed i) := by
  have hline := lineAbsent_of_firstError he
  have ho : (∀ o d r, i ≠ .openConn o d r) → s.life = .opened := opened_of_firstError he
  cases i with
  | openConn order hasDout hasDin => exact inv_completed_openConn h (unopened_of_firstError he) order hasDout hasDin
  | closeConn => exact inv_completed_closeConn h (ho nofun)
  | select =>
    obtain ⟨c, hc⟩ := connected_of_connection h (ho nofun)
    exact c.inv_moveSelect hc (x := .selected) rfl rfl rfl
  | release =>
    obtain ⟨c, hc⟩ := connected_of_connection h (ho nofun)
    exact c.inv_moveSelect hc (x := .deselected) rfl rfl rfl
  | sync => exact inv_completed_sync h (ho nofun)
  | rdbit => exact inv_didRead h (ho nofun) 1
  | rdn n => exact inv_didRead h (ho nofun) n
  | wrbit b => exact inv_wroteBits h (ho nofun) _ (.inr (by simpa [lineAbsent] using hline))
  | wr8 v n => exact inv_wroteBits h (ho nofun) v (present_of_not_absent hline)
  | wr16 v n => exact inv_wroteBits h (ho nofun) v (present_of_not_absent hline)
  | wr32 v n => exact inv_wroteBits h (ho nofun) v (present_of_not_absent hline)
  | wr64 v n => exact inv_wroteBits h (ho nofun) v (present_of_not_absent hline)

/-- However a command ends, it leaves a state that meets the invariant. -/
theorem inv_ended (h : Inv s.connection) (i : Instr) : Inv (s.ended i) := by
  rcases State.ended_cases i s with ⟨e, -, he⟩ | ⟨hok, he⟩ <;> rw [he]
  · exact inv_finish h ⟨e, 0⟩
  · exact inv_completed h hok

/-! ### The phases of a transfer -/

theorem firstPhase_ne_idle (k : Kind) : firstPhase k ≠ .idle := by cases k <;> decide

/-- The sequencer starts a bit at the data line only in a write. -/
theorem firstPhase_eq_wData {k : Kind} (h : firstPhase k = .wData) : k = .write := by
  cases k <;> simp [firstPhase] at h ⊢

theorem firstPhase_ne_rSample (k : Kind) : firstPhase k ≠ .rSample := by cases k <;> decide

/-- Every bit starts with the clock low. -/
theorem firstPhase_clock (k : Kind) : decide (firstPhase k = .pDwell ∨ firstPhase k = .pLow) = false := by
  cases k <;> decide

/-- A transfer at the start of a bit: its count and its line are all that is left to say. -/
theorem Connected.inv_firstPhase (c : Connected s) (e : t.connection = s.connection) (hb : t.busy = true)
    (hclk : t.clk = .driven false) (hp : t.phase = firstPhase t.kind) (count : t.cnt.toNat < t.n.toNat)
    (width : t.n.toNat ≤ 64) (dout : t.kind = .write → t.cfg.hasDout = true)
    (din : t.kind = .read → t.cfg.hasDin = true) : Inv t :=
  c.inv_of_running e hb
    { life := (c.congr e).life, count, width, dout, din
      phase := by rw [hp]; exact firstPhase_ne_idle t.kind
      wData := fun h => firstPhase_eq_wData (hp.symm.trans h)
      rSample := fun h => absurd (hp.symm.trans h) (firstPhase_ne_rSample t.kind)
      clock := by rw [hclk, hp, firstPhase_clock] }

/-- "Next bit" with the clock low: another bit starts, or the transfer has ended. -/
theorem Inv.of_nextBit (h : Inv s) (hb : s.busy = true) (hclk : s.clk = .driven false) (ht : nextBit s = .next t) :
    Inv t := by
  have r := h.running hb
  have c : Connected s := h.connected r.life
  rcases nextBit_cases s with ⟨hlt, e⟩ | ⟨-, e⟩ | ⟨-, e⟩ <;> rw [e] at ht <;> cases ht
  · exact c.inv_firstPhase rfl hb hclk rfl hlt r.width r.dout r.din
  · exact c.inv_of_rest rfl rfl rfl hclk

/-- "Next bit" overwrites the phase it finds. -/
theorem nextBit_setPhase (s : State) (p : Phase) : nextBit (s.setPhase p) = nextBit s := rfl

/-- One phase of a running transfer keeps the invariant. -/
theorem Inv.of_tick (h : Inv s) (hb : s.busy = true) (ht : tick s = .next t) : Inv t := by
  have r := h.running hb
  have c : Connected s := h.connected r.life
  cases hp : s.phase with
  | idle => exact absurd hp r.phase
  | wData =>
    rw [tick, hp] at ht
    cases ht
    have hclk : s.clk = .driven false := by simpa [hp] using r.clock
    exact (c.lineWrite_dout (r.dout (r.wData hp)) (bitAt s.val s.idx)).inv_of_running rfl hb
      ⟨r.life, nofun, r.count, r.width, r.dout, r.din, nofun, nofun, hclk⟩
  | pHigh =>
    rw [tick, hp] at ht
    cases ht
    exact (c.lineWrite_clk true).inv_of_running rfl hb
      ⟨r.life, nofun, r.count, r.width, r.dout, r.din, nofun, nofun, rfl⟩
  | pDwell =>
    have hclk : s.clk = .driven true := by simpa [hp] using r.clock
    simp only [tick, hp] at ht
    split_ifs at ht <;> cases ht
    · exact c.sleep.inv_of_running rfl hb
        ⟨r.life, nofun, r.count, r.width, r.dout, r.din, nofun, nofun, hclk⟩
    · exact c.inv_of_running rfl hb
        ⟨r.life, r.phase, r.count, r.width, r.dout, r.din, r.wData, r.rSample, r.clock⟩
  | pLow =>
    have low : Connected (s.lineWrite .clk false) := c.lineWrite_clk false
    have next : nextBit (s.lineWrite .clk false) = .next t → Inv t := fun ht =>
      Inv.of_nextBit (s := (s.lineWrite .clk false).setPhase .pHigh)
        (low.inv_of_running rfl hb
          ⟨r.life, nofun, r.count, r.width, r.dout, r.din, nofun, nofun, rfl⟩) hb rfl ((nextBit_setPhase _ .pHigh).trans ht)
    simp only [tick, hp] at ht
    cases hk : s.kind with
    | pulse => exact next (by simpa [hk] using ht)
    | write => exact next (by simpa [hk] using ht)
    | read =>
      rw [hk] at ht
      cases ht
      exact low.inv_of_running rfl hb
        ⟨r.life, nofun, r.count, r.width, r.dout, r.din, nofun, fun _ => hk, rfl⟩
  | rSample =>
    have hclk : s.clk = .driven false := by simpa [hp] using r.clock
    rw [tick, hp] at ht
    exact Inv.of_nextBit (s := s.lineRead.accumulate s.sample)
      (c.lineRead.inv_of_running rfl hb
        ⟨r.life, r.phase, r.count, r.width, r.dout, r.din, r.wData, r.rSample, r.clock⟩) hb hclk ht

/-- A transfer whose checks have passed starts in a state that meets the invariant. -/
theorem inv_beginTransfer (h : Inv s.connection) (hb : s.busy = true) (ho : s.life = .opened) {k : Kind} {n : Nat}
    {v : Option Value} (hn : n ≤ 64) (dout : k = .write → n = 0 ∨ s.cfg.hasDout = true)
    (din : k = .read → n = 0 ∨ s.cfg.hasDin = true) (ht : beginTransfer k n v s = .next t) : Inv t := by
  obtain ⟨c, hc⟩ := connected_of_connection h ho
  unfold beginTransfer at ht
  split_ifs at ht with h0 <;> cases ht
  · exact .of_connection h rfl rfl
  · refine c.inv_firstPhase rfl hb hc rfl ?_ ?_ (fun hk => (dout hk).resolve_left h0)
      (fun hk => (din hk).resolve_left h0)
    · simp [toNat_ofNat_n hn]; omega
    · simp [toNat_ofNat_n hn, hn]

/-- A wide write through an entry point of at most 64 bits. -/
theorem inv_beginTransfer_write (h : Inv s.connection) (hb : s.busy = true) (ho : s.life = .opened) {width n : Nat}
    {v : Value} (hw : width ≤ 64) (hcount : decide (width < n) = false)
    (hline : (decide (1 ≤ n) && !s.cfg.hasDout) = false) (ht : beginTransfer .write n (some v) s = .next t) : Inv t :=
  inv_beginTransfer (k := .write) h hb ho (le_trans (by simpa using hcount) hw) (fun _ => present_of_not_absent hline) nofun ht

/-! ### One step -/

/-- What both machines' ways of starting a command have in common: from a Connection at rest they answer a state that meets
the invariant. -/
def StartKeepsInv (start : Instr → State → Host.Outcome State Fault Refusal) : Prop :=
  ∀ (i : Instr) (a t : State), Inv a.connection → a.busy = true → start i a = .next t → Inv t

theorem startKeepsInv_exec : StartKeepsInv exec := by
  intro i a t h _ ht
  rw [exec_eq_ended] at ht
  cases ht
  exact inv_ended h i

theorem startKeepsInv_beginCommand : StartKeepsInv beginCommand := by
  intro i a t h hb ht
  unfold beginCommand at ht
  cases he : firstError i a with
  | some e =>
    rw [he] at ht
    cases ht
    exact inv_finish h ⟨e, 0⟩
  | none =>
    have hline := lineAbsent_of_firstError he
    have hcount := countTooLarge_of_firstError he
    have ho : (∀ o d r, i ≠ .openConn o d r) → a.life = .opened := opened_of_firstError he
    simp only [he] at ht
    cases i with
    | openConn order hasDout hasDin => exact startKeepsInv_exec (.openConn order hasDout hasDin) a t h hb ht
    | closeConn => exact startKeepsInv_exec .closeConn a t h hb ht
    | select => exact startKeepsInv_exec .select a t h hb ht
    | release => exact startKeepsInv_exec .release a t h hb ht
    | sync => exact inv_beginTransfer (k := .pulse) (n := 1) h hb (ho nofun) (by decide) nofun nofun ht
    | wrbit b =>
      exact inv_beginTransfer (k := .write) (n := 1) h hb (ho nofun) (by decide)
        (fun _ => .inr (by simpa [lineAbsent] using hline)) nofun ht
    | rdbit =>
      exact inv_beginTransfer (k := .read) (n := 1) h hb (ho nofun) (by decide) nofun
        (fun _ => .inr (by simpa [lineAbsent] using hline)) ht
    | rdn n =>
      exact inv_beginTransfer (k := .read) h hb (ho nofun) (by simpa [countTooLarge] using hcount) nofun
        (fun _ => present_of_not_absent hline) ht
    | wr8 v n => exact inv_beginTransfer_write h hb (ho nofun) (by decide : 8 ≤ 64) hcount hline ht
    | wr16 v n => exact inv_beginTransfer_write h hb (ho nofun) (by decide : 16 ≤ 64) hcount hline ht
    | wr32 v n => exact inv_beginTransfer_write h hb (ho nofun) (by decide : 32 ≤ 64) hcount hline ht
    | wr64 v n => exact inv_beginTransfer_write h hb (ho nofun) (le_refl 64) hcount hline ht

/-- One step of either machine, a reset and a running command included. -/
theorem Inv.of_stepWith {start : Instr → State → Host.Outcome State Fault Refusal} (hstart : StartKeepsInv start)
    (h : Inv s) (ht : stepWith start s = .next t) : Inv t := by
  unfold stepWith at ht
  split_ifs at ht with hr hb
  · cases ht
    exact inv_applyReset s
  · exact h.of_tick hb ht
  · have hc (rest : List CmdWord) : Inv (s.accept rest).connection := h.connection (by simpa using hb)
    unfold acceptNext at ht
    split at ht
    next =>
      cases ht
      exact h
    next w rest _ =>
      split at ht
      next i _ => exact hstart i (s.accept rest) t (hc rest) rfl ht
      next =>
        cases ht
        exact inv_finish (hc rest) ⟨.illegalCommand, 0⟩

/-! ### The obligations about the invariant -/

/-- Settles O50. -/
theorem invHoldsAtReset : Obligations.InvHoldsAtReset := inv_reset

/-- Settles O51: a command of `step` runs to its end from a Connection at rest. -/
theorem everyStepKeepsInv : Obligations.EveryStepKeepsInv :=
  fun _ _ h ht => h.of_stepWith startKeepsInv_exec ht

/-- Settles O52: a command of `phaseStep` begins from a Connection at rest. -/
theorem everyPhaseStepKeepsInv : Obligations.EveryPhaseStepKeepsInv :=
  fun _ _ h ht => h.of_stepWith startKeepsInv_beginCommand ht

/-- Settles O1. -/
theorem resetValuesAreThoseOfTheSpec : Obligations.ResetValuesAreThoseOfTheSpec :=
  ⟨rfl, rfl, rfl, rfl, rfl, rfl, rfl, rfl⟩

/-! ### The ports outside an open Connection -/

theorem LineReg.level_of_not_enabled {r : LineReg} (h : r.enable = false) : r.level = none := by
  cases r with
  | driven b => cases h
  | undriven => rfl
  | released => rfl

/-- Before OPEN the lines are undriven, after CLOSE they are released or, for an absent data line, still undriven. -/
theorem Inv.lineReg_not_enabled (h : Inv s) (hl : s.life ≠ .opened) (l : OutLine) : (s.lineReg l).enable = false := by
  cases hlife : s.life with
  | opened => exact absurd hlife hl
  | unopened =>
    obtain ⟨-, -, hclk, hseln, hdout⟩ := h.unopened hlife
    cases l <;> simp [State.lineReg, LineReg.enable, hclk, hseln, hdout]
  | closed =>
    obtain ⟨-, hclk, hseln, hdout⟩ := h.closed hlife
    cases l <;> cases hp : s.cfg.hasDout <;> simp [State.lineReg, LineReg.enable, hclk, hseln, hdout, hp]

/-- Settles O8. -/
theorem nothingIsDrivenOutsideAnOpenConnection : Obligations.NothingIsDrivenOutsideAnOpenConnection := by
  intro s h hl
  have off (l : OutLine) : (s.lineReg l).enable = false := h.lineReg_not_enabled hl l
  exact ⟨fun l => ⟨off l, LineReg.level_of_not_enabled (off l)⟩, by simp [State.dinOwned, hl],
    by simp [State.dlyReq, h.busy_eq_false hl]⟩

/-! ### What commands leave unchanged -/

/-- No command but OPEN touches `CFG`. -/
theorem completed_cfg (s : State) {i : Instr} (hi : ∀ o d r, i ≠ .openConn o d r) : (s.completed i).cfg = s.cfg := by
  cases i with
  | openConn o d r => exact absurd rfl (hi o d r)
  | _ => rfl

/-- Settles O31: a command that fails a check changes no register, and of those that pass only OPEN writes `CFG`. -/
theorem configurationIsImmutable : Obligations.ConfigurationIsImmutable := by
  intro i s t ht
  rw [exec_eq_ended] at ht
  cases ht
  rcases State.ended_cases i s with ⟨e, -, he⟩ | ⟨hok, he⟩ <;> rw [he]
  · exact .inl rfl
  · by_cases hi : ∀ o d r, i ≠ .openConn o d r
    · exact .inl (completed_cfg s hi)
    · push Not at hi
      obtain ⟨order, hasDout, hasDin, rfl⟩ := hi
      exact .inr ⟨unopened_of_firstError hok, order, hasDout, hasDin, rfl, rfl⟩

/-- What SYNC and every transfer leave as it was, and how they leave the sequencer and the clock. -/
structure TransferFrame (s t : State) : Prop where
  life  : t.life = s.life
  cfg   : t.cfg = s.cfg
  sel   : t.sel = s.sel
  seln  : t.seln = s.seln
  cmds  : t.cmds = s.cmds
  rst   : t.rst = s.rst
  busy  : t.busy = false
  phase : t.phase = .idle
  clock : s.clk = .driven false → t.clk = .driven false

theorem raise_frame (s : State) (e : Status) : TransferFrame s (s.raise e) :=
  ⟨rfl, rfl, rfl, rfl, rfl, rfl, rfl, rfl, id⟩

theorem wroteBits_frame {width : Nat} (s : State) (v : BitVec width) (n : Nat) : TransferFrame s (s.wroteBits v n) :=
  ⟨rfl, rfl, rfl, rfl, rfl, rfl, rfl, rfl, fun h => by simp [State.wroteBits, h]⟩

theorem didRead_frame (s : State) (n : Nat) : TransferFrame s (s.didRead n) :=
  ⟨rfl, rfl, rfl, rfl, rfl, rfl, rfl, rfl, fun h => by simp [State.didRead, h]⟩

theorem completed_sync_frame (s : State) : TransferFrame s (s.completed .sync) :=
  ⟨rfl, rfl, rfl, rfl, rfl, rfl, rfl, rfl, fun _ => rfl⟩

/-- Settles O32: a command that fails a check performs nothing; one that passes is SYNC, a write or a read, whose closed
forms have the frame and leave the side of the wire they do not use. -/
theorem transfersLeaveTheRestAlone : Obligations.TransfersLeaveTheRestAlone := by
  intro i s t hi ht
  rw [exec_eq_ended] at ht
  cases ht
  suffices h : TransferFrame s (s.ended i) ∧
      ((i = .sync ∨ i = .rdbit ∨ ∃ n, i = .rdn n) → (s.ended i).dout = s.dout) ∧
      ((i ≠ .rdbit ∧ ∀ n, i ≠ .rdn n) → (s.ended i).din = s.din) by
    obtain ⟨⟨hlife, hcfg, hsel, hseln, hcmds, hrst, hbusy, hphase, hclock⟩, hdout, hdin⟩ := h
    exact ⟨hlife, hcfg, hsel, hseln, hcmds, hrst, hbusy, hphase, hclock, hdout, hdin⟩
  rcases State.ended_cases i s with ⟨e, -, he⟩ | ⟨-, he⟩ <;> rw [he]
  · exact ⟨raise_frame s e, fun _ => rfl, fun _ => rfl⟩
  · rcases hi with rfl | ⟨b, rfl⟩ | rfl | ⟨n, rfl⟩ | ⟨v, n, rfl⟩ | ⟨v, n, rfl⟩ | ⟨v, n, rfl⟩ | ⟨v, n, rfl⟩
    · exact ⟨completed_sync_frame s, fun _ => rfl, fun _ => rfl⟩
    · exact ⟨wroteBits_frame s (BitVec.ofBool b) 1, by simp, fun _ => rfl⟩
    · exact ⟨didRead_frame s 1, fun _ => rfl, by simp⟩
    · exact ⟨didRead_frame s n, fun _ => rfl, by simp⟩
    · exact ⟨wroteBits_frame s v n, by simp, fun _ => rfl⟩
    · exact ⟨wroteBits_frame s v n, by simp, fun _ => rfl⟩
    · exact ⟨wroteBits_frame s v n, by simp, fun _ => rfl⟩
    · exact ⟨wroteBits_frame s v n, by simp, fun _ => rfl⟩

/-! ### Programs from reset -/

/-- What every step keeps, every run keeps, on any machine. -/
theorem run_keeps (M : Host.Core) {P : M.State → Prop} (hP : ∀ s t, P s → M.step s = .next t → P t) (k : Nat)
    {s t : M.State} (hs : P s) (ht : M.run k s = .next t) : P t := by
  induction k generalizing s with
  | zero =>
    cases ht
    exact hs
  | succ k ih =>
    rw [Host.Core.run] at ht
    split at ht
    next s1 h => exact ih (hP s s1 hs h) ht
    next => cases ht
    next => cases ht

/-- Between commands `step` leaves the block idle: a command runs to its response in one step. -/
theorem step_keeps_idle (hb : s.busy = false) (ht : step s = .next t) : t.busy = false := by
  rcases step_idle_cases s hb with ⟨-, e⟩ | ⟨-, -, e⟩ | ⟨w, rest, i, -, -, -, e⟩ | ⟨w, rest, r, -, -, -, e⟩ <;>
    rw [e] at ht <;> cases ht
  · rfl
  · exact hb
  · exact State.ended_busy i (s.accept rest)
  · rfl

/-- An event writes the data-out line, releases it, or plays no part in what the trace says of it. -/
theorem doutEvent_cases (e : Event) :
    (∃ b, e = .write .dout b) ∨ e = .rel .dout ∨
      ∀ trace, lineAfter .dout (trace ++ [e]) = lineAfter .dout trace ∧ doutWrites (trace ++ [e]) = doutWrites trace := by
  cases e with
  | write l b => cases l <;> simp [lineAfter, doutWrites]
  | rel l => cases l <;> simp [lineAfter, doutWrites]
  | read b => simp [lineAfter, doutWrites]
  | sleep => simp [lineAfter, doutWrites]

/-- The level the data-out line is driven to is the last one written to it. -/
theorem getLast?_doutWrites {trace : List Event} {b : Bool} (h : lineAfter .dout trace = .driven b) :
    (doutWrites trace).getLast? = some b := by
  induction trace using List.reverseRecOn with
  | nil => cases h
  | append_singleton trace e ih =>
    rcases doutEvent_cases e with ⟨b', rfl⟩ | rfl | he
    · have : b' = b := by simpa [lineAfter] using h
      simp [doutWrites, this]
    · simp [lineAfter] at h
    · rw [(he trace).1] at h
      rw [(he trace).2, ih h]

/-- A data-out line still undriven has been written no level. -/
theorem doutWrites_eq_nil {trace : List Event} (h : lineAfter .dout trace = .undriven) : doutWrites trace = [] := by
  induction trace using List.reverseRecOn with
  | nil => rfl
  | append_singleton trace e ih =>
    rcases doutEvent_cases e with ⟨b, rfl⟩ | rfl | he
    · simp [lineAfter] at h
    · simp [lineAfter] at h
    · rw [(he trace).1] at h
      rw [(he trace).2, ih h]

/-- Rule R33: an idle block that meets the invariant, with the Connection open. -/
theorem Inv.at_rest (h : Inv s) (hb : s.busy = false) (ho : s.life = .opened) :
    s.clk = .driven false ∧
      (s.sel = .deselected → s.seln = .driven true) ∧ (s.sel = .selected → s.seln = .driven false) ∧
      (s.cfg.hasDout = true → ∃ b, (doutWrites s.trace).getLast? = some b ∧ s.dout = .driven b) ∧
      (s.cfg.hasDout = false → s.dout = .undriven ∧ doutWrites s.trace = []) := by
  obtain ⟨hseln, hdout⟩ := h.opened ho
  refine ⟨(h.rest hb).clock ho, fun hx => by simp [hseln, hx], fun hx => by simp [hseln, hx], fun hd => ?_, fun hd => ?_⟩
  · obtain ⟨b, hb⟩ : ∃ b, s.dout = .driven b := by
      rw [if_pos hd] at hdout
      exact hdout.elim (⟨true, ·⟩) (⟨false, ·⟩)
    exact ⟨b, getLast?_doutWrites (h.lines.dout.symm.trans hb), hb⟩
  · have hu : s.dout = .undriven := by simpa [hd] using hdout
    exact ⟨hu, doutWrites_eq_nil (h.lines.dout.symm.trans hu)⟩

/-- Settles O54: every step of a run from reset keeps the invariant and leaves the block idle. -/
theorem stateAtRestOfEveryProgram : Obligations.StateAtRestOfEveryProgram := by
  intro words peripheral k t ht
  have hs : Inv { State.reset with cmds := words, din := peripheral } := .of_connection (inv_reset.connection rfl) rfl rfl
  obtain ⟨h, hb⟩ := run_keeps Sys2Proof.core (P := fun s => Inv s ∧ s.busy = false)
    (fun s t hs ht => ⟨everyStepKeepsInv s t hs.1 ht, step_keeps_idle hs.2 ht⟩) k ⟨hs, rfl⟩ ht
  exact ⟨hb, h.at_rest hb⟩

end Sys2Proof.Machine
end

section
/-! PROOFS. The family of `20_memory.md`: the primitives each command performs, the bits of a value that travel, and the
commands in which the bit order plays no part. -/

namespace Sys2Proof.Machine

/-! ### The primitives each command performs -/

/-- The events of a command that passes its checks, first one first. -/
def State.performed (s : State) (i : Instr) : List Event :=
  match i with
  | .openConn _ hasDout _ => [.write .clk false, .write .sel true] ++ (if hasDout then [.write .dout false] else [])
  | .closeConn => [.rel .clk, .rel .sel] ++ (if s.cfg.hasDout then [.rel .dout] else []) ++
      (if s.cfg.hasDin then [.rel .din] else [])
  | .select => [.write .sel false]
  | .release => [.write .sel true]
  | .sync => pulseEvents
  | .wrbit b => (wireBits (BitVec.ofBool b) 1 s.cfg.order).flatMap writeBitEvents
  | .rdbit => (s.din.take 1).flatMap readBitEvents
  | .rdn n => (s.din.take n).flatMap readBitEvents
  | .wr8 v n => (wireBits v n s.cfg.order).flatMap writeBitEvents
  | .wr16 v n => (wireBits v n s.cfg.order).flatMap writeBitEvents
  | .wr32 v n => (wireBits v n s.cfg.order).flatMap writeBitEvents
  | .wr64 v n => (wireBits v n s.cfg.order).flatMap writeBitEvents

theorem State.completed_trace (s : State) (i : Instr) : (s.completed i).trace = s.trace ++ s.performed i := by
  cases i with
  | openConn | closeConn => simp [State.completed, State.performed]
  | _ => rfl

theorem primitiveCounts_writeBitEvents (b : Bool) : primitiveCounts (writeBitEvents b) = ⟨2, 0, 1, 0, 1, 0⟩ := by
  cases b <;> decide

theorem primitiveCounts_readBitEvents (b : Bool) : primitiveCounts (readBitEvents b) = ⟨2, 0, 0, 1, 1, 0⟩ := by
  cases b <;> decide

theorem primitiveCounts_writes (bits : List Bool) :
    primitiveCounts (bits.flatMap writeBitEvents) = ⟨2 * bits.length, 0, bits.length, 0, bits.length, 0⟩ := by
  induction bits with
  | nil => rfl
  | cons b bits ih =>
    rw [List.flatMap_cons, primitiveCounts_append, primitiveCounts_writeBitEvents, ih]
    simp [Nat.mul_add, Nat.add_comm]

theorem primitiveCounts_reads (samples : List Bool) :
    primitiveCounts (samples.flatMap readBitEvents) =
      ⟨2 * samples.length, 0, 0, samples.length, samples.length, 0⟩ := by
  induction samples with
  | nil => rfl
  | cons b samples ih =>
    rw [List.flatMap_cons, primitiveCounts_append, primitiveCounts_readBitEvents, ih]
    simp [Nat.mul_add, Nat.add_comm]

/-- Rule R57's table, row by row. -/
theorem primitiveCounts_performed (s : State) (i : Instr) :
    primitiveCounts (s.performed i) = primitiveTable i s.cfg := by
  cases i with
  | openConn _ hasDout _ => cases hasDout <;> rfl
  | closeConn =>
    simp only [State.performed, primitiveTable]
    cases s.cfg.hasDout <;> cases s.cfg.hasDin <;> rfl
  | select | release | sync => rfl
  | wrbit | wr8 | wr16 | wr32 | wr64 => simp [State.performed, primitiveTable, primitiveCounts_writes]
  | rdbit | rdn => simp [State.performed, primitiveTable, primitiveCounts_reads]

/-- Settles O18: a command that fails a check changes no trace; one that passes appends its events, which are counted. -/
theorem primitiveCountsFollowTheTable : Obligations.PrimitiveCountsFollowTheTable := by
  intro i s t ht
  rw [exec_eq_ended] at ht
  cases ht
  rcases State.ended_cases i s with ⟨e, hfail, he⟩ | ⟨hok, he⟩ <;> rw [he]
  · exact ⟨[], (List.append_nil _).symm, by simp [hfail], fun _ => rfl⟩
  · exact ⟨s.performed i, s.completed_trace i, fun _ => primitiveCounts_performed s i, (absurd hok ·)⟩

/-! ### The bits of a value that travel -/

/-- The index formula reaches the low `n` bits alone (rules R60, R63). -/
theorem wireBits_congr {w w' n : Nat} {v : BitVec w} {v' : BitVec w'} (h : ∀ k < n, v.getLsbD k = v'.getLsbD k)
    (order : BitOrder) : wireBits v n order = wireBits v' n order := by
  rw [wireBits_eq, wireBits_eq]
  exact List.map_congr_left fun i hi => h _ (index_lt order (List.mem_range.mp hi))

/-- Of the bits that do not travel, `VAL` alone keeps a record. -/
theorem State.wroteBits_congr {w w' n : Nat} {v : BitVec w} {v' : BitVec w'}
    (h : ∀ k < n, v.getLsbD k = v'.getLsbD k) (s : State) :
    s.wroteBits v n = { s.wroteBits v' n with val := v.setWidth 64 } := by
  simp only [State.wroteBits, wireBits_congr h]

/-- The width of the entry point decides only whether the count is accepted (rule R63). -/
theorem wideWrite_setWidth {width n : Nat} (h0 : 0 < width) (hw : width ≤ 64) (hn : n ≤ width) (v : BitVec width)
    (s : State) : wideWrite v n s = wideWrite (v.setWidth 64) n s := by
  have hbits : ∀ k < n, v.getLsbD k = (v.setWidth 64).getLsbD k := fun k hk => by
    simp [show k < 64 by omega]
  have hwrote : s.wroteBits v n = s.wroteBits (v.setWidth 64) n := by
    rw [State.wroteBits_congr hbits]
    simp [State.wroteBits]
  simp only [wideWrite_eq h0, wideWrite_eq (show 0 < 64 by decide), hwrote, show ¬ width < n by omega,
    show ¬ 64 < n by omega]

/-- Settles O22: each wide write is one shared body, which looks at the low `n` bits alone. -/
theorem onlyTheLowBitsTravel : Obligations.OnlyTheLowBitsTravel := by
  intro n s
  refine ⟨fun v hn => wideWrite_setWidth (by decide) (by decide) hn v s,
    fun v hn => wideWrite_setWidth (by decide) (by decide) hn v s,
    fun v hn => wideWrite_setWidth (by decide) (by decide) hn v s, fun v v' _ hbits => ?_⟩
  refine ⟨_, _, exec_eq_ended _ s, exec_eq_ended _ s, ?_⟩
  have hchecks : firstError (.wr64 v n) s = firstError (.wr64 v' n) s := rfl
  rcases State.ended_cases (.wr64 v n) s with ⟨e, hfail, he⟩ | ⟨hok, he⟩
  · rw [he, State.ended_of_error (hchecks ▸ hfail)]
  · rw [he, State.ended_of_ok (hchecks ▸ hok), State.completed, State.completed, State.wroteBits_congr hbits]
    rfl

/-! ### Commands in which the bit order plays no part -/

/-- The state under another bit order. -/
def State.withOrder (s : State) (order : BitOrder) : State := { s with cfg := { s.cfg with order := order } }

/-- No check looks at the bit order. -/
theorem firstError_withOrder (i : Instr) (s : State) (order : BitOrder) :
    firstError i (s.withOrder order) = firstError i s := by
  cases i <;> rfl

theorem wireBits_one {width : Nat} (v : BitVec width) (order : BitOrder) : wireBits v 1 order = [v.getLsbD 0] := by
  cases order <;> rfl

theorem assembled_singleton (b : Bool) (order : BitOrder) : assembled [b] order = b.toNat := by
  cases order <;> cases b <;> rfl

theorem State.wroteBits_one_withOrder {width : Nat} (s : State) (v : BitVec width) (order : BitOrder) :
    (s.withOrder order).wroteBits v 1 = (s.wroteBits v 1).withOrder order := by
  simp only [State.wroteBits, State.withOrder, wireBits_one]

theorem State.didRead_one_withOrder (s : State) (order : BitOrder) :
    (s.withOrder order).didRead 1 = (s.didRead 1).withOrder order := by
  simp only [State.didRead, State.withOrder, Oracle.take, assembled_singleton]

/-- Settles O30: the checks look at no order, and of the six commands only WRBIT and RDBIT go through the index formula,
where a single bit has index 0 under both orders. -/
theorem bitOrderPlaysNoPartInOneBitCommands : Obligations.BitOrderPlaysNoPartInOneBitCommands := by
  intro i s t order hi ht
  rw [exec_eq_ended] at ht
  cases ht
  suffices h : (s.withOrder order).ended i = (s.ended i).withOrder order from
    (exec_eq_ended i (s.withOrder order)).trans (congrArg _ h)
  have hchecks := firstError_withOrder i s order
  rcases State.ended_cases i s with ⟨e, hfail, he⟩ | ⟨hok, he⟩
  · rw [he, State.ended_of_error (hchecks.trans hfail)]
    rfl
  · rw [he, State.ended_of_ok (hchecks.trans hok)]
    rcases hi with rfl | rfl | rfl | rfl | ⟨b, rfl⟩ | rfl
    · rfl
    · rfl
    · rfl
    · rfl
    · exact s.wroteBits_one_withOrder (BitVec.ofBool b) order
    · exact s.didRead_one_withOrder order

end Sys2Proof.Machine
end

section
/-! PROOFS. The family of `30_encoding.md`: command words and response words, what an idle and a busy block do with the words
presented, and the guard `WITHSEL`. -/

namespace Sys2Proof.Machine

/-! ### Decoding the word of a command -/

/-- The round trip of every command, from the family of its constructors. -/
theorem decode_encodeWord {i : Instr} (h : i.WellFormed = true) : decode (encodeWord i) = .ok i := by
  cases i with
  | openConn order hasDout hasDin => exact Laws.RoundTrip.openConn order hasDout hasDin h
  | closeConn => exact Laws.RoundTrip.closeConn h
  | select => exact Laws.RoundTrip.select h
  | release => exact Laws.RoundTrip.release h
  | sync => exact Laws.RoundTrip.sync h
  | wrbit b => exact Laws.RoundTrip.wrbit b h
  | rdbit => exact Laws.RoundTrip.rdbit h
  | rdn n => exact Laws.RoundTrip.rdn n h
  | wr8 v n => exact Laws.RoundTrip.wr8 v n h
  | wr16 v n => exact Laws.RoundTrip.wr16 v n h
  | wr32 v n => exact Laws.RoundTrip.wr32 v n h
  | wr64 v n => exact Laws.RoundTrip.wr64 v n h

theorem encode_eq_encodeWord {i : Instr} (h : i.WellFormed = true) : encode i = some (encodeWord i) := if_pos h

/-- Settles O36. -/
theorem decodeOfEncodeIsTheCommand : Obligations.DecodeOfEncodeIsTheCommand :=
  fun i h => ⟨encodeWord i, encode_eq_encodeWord h, decode_encodeWord h⟩

/-! ### What a word decodes to -/

/-- The same command with the operands a word holds in its fields. -/
def withOperandsOf (w : CmdWord) : Instr → Instr
  | .openConn _ _ _ => .openConn (orderField w) (hasDoutField w) (hasDinField w)
  | .closeConn => .closeConn
  | .select => .select
  | .release => .release
  | .sync => .sync
  | .wrbit _ => .wrbit (bitField w)
  | .rdbit => .rdbit
  | .rdn _ => .rdn (countField w)
  | .wr8 _ _ => .wr8 (valueField 8 w) (countField w)
  | .wr16 _ _ => .wr16 (valueField 16 w) (countField w)
  | .wr32 _ _ => .wr32 (valueField 32 w) (countField w)
  | .wr64 _ _ => .wr64 (valueField 64 w) (countField w)

/-- Everything the decoder can do: the op code names the command and the fields give its operands, or the op code is
reserved. -/
theorem decode_cases (w : CmdWord) :
    (∃ i, decode w = .ok i ∧ opField w = i.op ∧ withOperandsOf w i = i) ∨
      (12 ≤ (opField w).toNat ∧ decode w = .error (.reservedOp (opField w))) := by
  unfold decode
  split
  case h_13 =>
    refine .inr ⟨?_, rfl⟩
    simp only [imp_false] at *
    omega
  all_goals exact .inl ⟨_, rfl, BitVec.eq_of_toNat_eq ‹_›, rfl⟩

/-- A word that decodes has the command's op code and operands. -/
theorem fields_of_decode {w : CmdWord} {i : Instr} (h : decode w = .ok i) :
    opField w = i.op ∧ withOperandsOf w i = i := by
  rcases decode_cases w with ⟨j, hj, hop, hi⟩ | ⟨-, he⟩
  · cases hj.symm.trans h
    exact ⟨hop, hi⟩
  · cases he.symm.trans h

theorem op_lt_twelve (i : Instr) : i.op.toNat < 12 := by cases i <;> simp [Instr.op]

/-- A reserved op code is rejected by name (rule R86). -/
theorem decode_reserved {w : CmdWord} (h : 12 ≤ (opField w).toNat) : decode w = .error (.reservedOp (opField w)) := by
  rcases decode_cases w with ⟨i, -, hop, -⟩ | ⟨-, he⟩
  · have := op_lt_twelve i
    rw [hop] at h
    omega
  · exact he

theorem countFits_countField (w : CmdWord) : countFits (countField w) = true :=
  decide_eq_true (w.extractLsb' 8 8).isLt

/-- What a word holds in its count field fits the field. -/
theorem wellFormed_withOperandsOf (w : CmdWord) (i : Instr) : (withOperandsOf w i).WellFormed = true := by
  cases i with
  | rdn | wr8 | wr16 | wr32 | wr64 => exact countFits_countField w
  | _ => rfl

/-! ### The bits a command uses -/

theorem code_orderField (w : CmdWord) : (orderField w).code = w.getLsbD 4 := by
  unfold orderField
  cases w.getLsbD 4 <;> rfl

/-- A word under a mask, field by field. -/
theorem and_packWord (w : CmdWord) (op : BitVec 4) (o d r : Bool) (n : BitVec 8) (v : Value) :
    w &&& packWord op o d r n v =
      packWord (opField w &&& op) ((orderField w).code && o) (hasDoutField w && d) (hasDinField w && r)
        (BitVec.ofNat 8 (countField w) &&& n) (valueField 64 w &&& v) := by
  apply BitVec.eq_of_getLsbD_eq
  intro k hk
  rw [BitVec.getLsbD_and, getLsbD_packWord, getLsbD_packWord]
  split_ifs with h4 e4 e5 e6 e7 h16
  · simp [opField, h4]
  · simp [code_orderField, e4]
  · simp [hasDoutField, e5]
  · simp [hasDinField, e6]
  · simp
  · rw [BitVec.getLsbD_and, countField, BitVec.ofNat_toNat, BitVec.setWidth_eq, BitVec.getLsbD_extractLsb']
    simp [show k - 8 < 8 by omega, show 8 + (k - 8) = k by omega]
  · simp [valueField, show k - 16 < 64 by omega, show 16 + (k - 16) = k by omega]

/-- A value narrower than the field is the field under the mask of its width. -/
theorem setWidth_valueField {width : Nat} (w : CmdWord) :
    (valueField width w).setWidth 64 = valueField 64 w &&& (BitVec.allOnes width).setWidth 64 := by
  apply BitVec.eq_of_getLsbD_eq
  intro k hk
  simp [valueField, hk, Bool.and_comm]

/-- A word under the mask of a command without order and presence bits, whose value is `width` bits wide. -/
theorem and_mask (w : CmdWord) (n : BitVec 8) (width : Nat) :
    w &&& packWord 0xF false false false n ((BitVec.allOnes width).setWidth 64) =
      packWord (opField w) false false false (BitVec.ofNat 8 (countField w) &&& n) ((valueField width w).setWidth 64) := by
  have hop : opField w &&& 0xF = opField w := BitVec.and_allOnes
  rw [and_packWord, hop, setWidth_valueField]
  simp only [Bool.and_false]

/-- Without a count. -/
theorem and_valueMask {w : CmdWord} {op : BitVec 4} (h : opField w = op) (width : Nat) :
    w &&& packWord 0xF false false false 0 ((BitVec.allOnes width).setWidth 64) =
      packWord op false false false 0 ((valueField width w).setWidth 64) := by
  rw [and_mask, h, BitVec.ofNat_eq_ofNat, BitVec.and_zero]

/-- With a count. -/
theorem and_countedMask {w : CmdWord} {op : BitVec 4} (h : opField w = op) (width : Nat) :
    w &&& packWord 0xF false false false 0xFF ((BitVec.allOnes width).setWidth 64) =
      packWord op false false false (BitVec.ofNat 8 (countField w)) ((valueField width w).setWidth 64) := by
  rw [and_mask, h]
  exact congrArg (packWord _ _ _ _ · _) BitVec.and_allOnes

theorem setWidth_valueField_zero (w : CmdWord) : (valueField 0 w).setWidth 64 = 0 := by
  rw [BitVec.of_length_zero (x := valueField 0 w)]
  rfl

theorem setWidth_valueField_one (w : CmdWord) :
    (valueField 1 w).setWidth 64 = (BitVec.ofBool (bitField w)).setWidth 64 := by
  congr 1
  apply BitVec.eq_of_getLsbD_eq
  intro k hk
  obtain rfl : k = 0 := by omega
  simp [valueField, bitField]

/-- The mask of the op code alone. -/
theorem and_opMask {w : CmdWord} {op : BitVec 4} (h : opField w = op) :
    w &&& packWord 0xF false false false 0 0 = packWord op false false false 0 0 :=
  (and_valueMask h 0).trans (congrArg _ (setWidth_valueField_zero w))

/-- The operands a word holds, encoded, for each command under its mask from rule R83's column "fields used". -/
theorem encodeWord_withOperandsOf {w : CmdWord} {i : Instr} (h : opField w = i.op) :
    encodeWord (withOperandsOf w i) = w &&& usedBits i := by
  symm
  cases i with
  | openConn =>
    refine (and_packWord w 0xF true true true 0 0).trans ?_
    simp [h, encodeWord, withOperandsOf, Instr.op]
  | closeConn | select | release | sync | rdbit => exact and_opMask h
  | wrbit => exact (and_valueMask h 1).trans (congrArg _ (setWidth_valueField_one w))
  | rdn => exact (and_countedMask h 0).trans (congrArg _ (setWidth_valueField_zero w))
  | wr8 => exact and_countedMask h 8
  | wr16 => exact and_countedMask h 16
  | wr32 => exact and_countedMask h 32
  | wr64 => exact (and_countedMask h 64).trans (congrArg _ (BitVec.setWidth_eq _))

/-- Settles O37: the fields of the word that the command uses are the fields of the command's own word. -/
theorem encodeOfDecodeIsTheUsedBits : Obligations.EncodeOfDecodeIsTheUsedBits := by
  intro w i h
  obtain ⟨hop, hi⟩ := fields_of_decode h
  have hwf : i.WellFormed = true := hi ▸ wellFormed_withOperandsOf w i
  have hword : encodeWord i = w &&& usedBits i := by rw [← encodeWord_withOperandsOf hop, hi]
  exact ⟨hwf, hword ▸ encode_eq_encodeWord hwf, hword ▸ decode_encodeWord hwf⟩

/-! ### The opcode table -/

theorem mask_of_mem_opcodeTable : ∀ r ∈ opcodeTable, r.mask = packWord 0xF false false false 0 0 := by decide

/-- A row looks at the op code of a word alone (rule R83). -/
theorem covers_eq {r : OpcodeRow} (hr : r ∈ opcodeTable) (w : CmdWord) :
    r.covers w = (packWord (opField w) false false false 0 0 == r.pattern) := by
  rw [OpcodeRow.covers, mask_of_mem_opcodeTable r hr, and_opMask rfl]

/-- The mnemonics of the rows with an op code. -/
def mnemonicsOf (op : BitVec 4) : List String :=
  (opcodeTable.filter fun r => packWord op false false false 0 0 == r.pattern).map OpcodeRow.mnemonic

theorem mnemonicsOf_op (i : Instr) : mnemonicsOf i.op = [i.mnemonic] := by
  cases i <;> simp only [Instr.op, Instr.mnemonic] <;> decide

theorem mnemonicsOf_reserved : ∀ op : BitVec 4, 12 ≤ op.toNat → mnemonicsOf op = [] := by decide

/-- Settles O39: the rows that cover a word are those with its op code. -/
theorem opcodeTableNamesWhatIsDecoded : Obligations.OpcodeTableNamesWhatIsDecoded := by
  intro w
  have hrows : (opcodeTable.filter fun r => r.covers w).map OpcodeRow.mnemonic = mnemonicsOf (opField w) :=
    congrArg _ (List.filter_congr fun r hr => covers_eq hr w)
  rw [hrows]
  rcases decode_cases w with ⟨i, hd, hop, -⟩ | ⟨hres, hd⟩
  · rw [hd, hop]
    exact mnemonicsOf_op i
  · rw [hd]
    exact mnemonicsOf_reserved (opField w) hres

/-! ### The response word -/

theorem Response.status_field (r : Response) : r.word.extractLsb' 0 4 = r.status.code :=
  BitVec.extractLsb'_append_eq_right

theorem Response.data_field (r : Response) : r.word.extractLsb' 4 64 = r.data :=
  BitVec.extractLsb'_append_eq_left

/-- Settles O41: the status is read back by its number, the data as it stands. -/
theorem responseWordCarriesStatusAndData : Obligations.ResponseWordCarriesStatusAndData := by
  intro r
  refine ⟨r.status_field, r.data_field, ?_⟩
  simp only [Response.ofWord, r.status_field, r.data_field]
  obtain ⟨status, data⟩ := r
  cases status <;> rfl

/-! ### Lines of text -/

/-- Settles O42. -/
theorem workedLinesAssemble : Obligations.WorkedLinesAssemble := by
  unfold Obligations.WorkedLinesAssemble
  decide

/-! ### Words presented to an idle block -/

theorem step_idle {s : State} (hr : s.rst = false) (hb : s.busy = false) : step s = acceptNext exec s := by
  simp only [step, stepWith, hr, hb, Bool.false_eq_true, if_false]

/-- Settles O43. -/
theorem stepRunsTheDecodedCommand : Obligations.StepRunsTheDecodedCommand := by
  intro s w rest i hr hb hc hd
  simp only [step_idle hr hb, acceptNext, hc, hd]
  rfl

/-- Settles O40. -/
theorem reservedOpEndsInIllegalCommand : Obligations.ReservedOpEndsInIllegalCommand := by
  intro w hop
  refine ⟨decode_reserved hop, fun s rest hr hb hc => ?_⟩
  simp only [step_idle hr hb, acceptNext, hc, decode_reserved hop]
  rfl

/-! ### Words presented to a busy block -/

@[simp] theorem State.withProgram_phase (s : State) (words : List CmdWord) : (s.withProgram words).phase = s.phase := rfl
@[simp] theorem State.withProgram_kind (s : State) (words : List CmdWord) : (s.withProgram words).kind = s.kind := rfl

theorem thenRun_ite (c : Prop) [Decidable c] (a b : Host.Outcome State Fault Refusal)
    (f : State → Host.Outcome State Fault Refusal) :
    thenRun (if c then a else b) f = if c then thenRun a f else thenRun b f := apply_ite (thenRun · f) c a b

/-- "Next bit" looks at no word presented and leaves them there. -/
theorem nextBit_withProgram (s : State) (words : List CmdWord) :
    nextBit (s.withProgram words) = thenRun (nextBit s) fun t => .next (t.withProgram words) := by
  unfold nextBit
  rw [thenRun_ite, thenRun_ite]
  rfl

/-- Neither does any row of the phase table. -/
theorem tick_withProgram (s : State) (words : List CmdWord) :
    tick (s.withProgram words) = thenRun (tick s) fun t => .next (t.withProgram words) := by
  simp only [tick, State.withProgram_phase, State.withProgram_kind]
  cases s.phase with
  | idle | wData | pHigh => rfl
  | pDwell =>
    rw [thenRun_ite]
    rfl
  | pLow =>
    cases s.kind with
    | read => rfl
    | pulse | write => exact nextBit_withProgram (s.lineWrite .clk false) words
  | rSample => exact nextBit_withProgram (s.lineRead.accumulate s.sample) words

/-- Settles O45: the phases look at no word presented; with those already there, that says they leave them. -/
theorem busyBlockAcceptsNoCommand : Obligations.BusyBlockAcceptsNoCommand := by
  intro s t words hr hb ht
  rw [step_busy hr hb] at ht
  have htick (ws : List CmdWord) : tick (s.withProgram ws) = .next (t.withProgram ws) := by
    rw [tick_withProgram, ht, thenRun]
  have hstep : step (s.withProgram words) = tick (s.withProgram words) := step_busy hr hb
  have hsame : t = t.withProgram s.cmds := by
    have := ht.symm.trans (htick s.cmds)
    injection this
  have hcmds : t.cmds = (t.withProgram s.cmds).cmds := congrArg State.cmds hsame
  exact ⟨hcmds, hstep.trans (htick words)⟩

/-! ### The guard -/

/-- The selection of `s` is still live in `t`: since `s` the select line has not been written, and the Connection is open. -/
structure SelectedSince (s t : State) : Prop where
  life  : t.life = .opened
  sel   : t.sel = .selected
  trace : ∃ events, t.trace = s.trace ++ events ∧ selectWrites events = []

theorem SelectedSince.refl {s : State} (ho : s.life = .opened) (hs : s.sel = .selected) : SelectedSince s s :=
  ⟨ho, hs, [], (List.append_nil _).symm, rfl⟩

theorem SelectedSince.trans {s t u : State} (h : SelectedSince s t) (h' : SelectedSince t u) : SelectedSince s u := by
  obtain ⟨-, -, a, ha, ha0⟩ := h
  obtain ⟨ho, hs, b, hb, hb0⟩ := h'
  refine ⟨ho, hs, a ++ b, by rw [hb, ha, List.append_assoc], ?_⟩
  rw [selectWrites, List.filter_append]
  exact congrArg₂ (· ++ ·) ha0 hb0

/-- The column `sel` of rule R57's table counts the writes of the select line. -/
theorem selectWrites_eq_nil {events : List Event} (h : (primitiveCounts events).sel = 0) : selectWrites events = [] := by
  rw [primitiveCounts, List.countP_eq_zero] at h
  rw [selectWrites, List.filter_eq_nil_iff]
  simpa [or_comm] using h

/-- No command but RELEASE and CLOSE ends a live selection: SELECT and OPEN fail, and in rule R57's table the others write
no select line. -/
theorem selectedSince_ended {s : State} (ho : s.life = .opened) (hs : s.sel = .selected) {i : Instr}
    (hi : i ≠ .release ∧ i ≠ .closeConn) : SelectedSince s (s.ended i) := by
  rcases State.ended_cases i s with ⟨e, -, he⟩ | ⟨hok, he⟩ <;> rw [he]
  · exact ⟨ho, hs, [], (List.append_nil _).symm, rfl⟩
  · cases i with
    | openConn => cases ho.symm.trans (unopened_of_firstError hok)
    | select => simp [firstError, lifeWrong, selWrong, ho, hs] at hok
    | release => exact absurd rfl hi.1
    | closeConn => exact absurd rfl hi.2
    | _ => exact ⟨ho, hs, _, s.completed_trace _, selectWrites_eq_nil (by rw [primitiveCounts_performed]; rfl)⟩

/-- A body issued by a host that carries on after errors leaves a live selection live. -/
theorem selectedSince_runCommands (body : List Instr) {s : State} (ho : s.life = .opened) (hs : s.sel = .selected)
    (hbody : ∀ i ∈ body, i ≠ .release ∧ i ≠ .closeConn) :
    ∃ t, runCommands body s = .next t ∧ SelectedSince s t := by
  induction body generalizing s with
  | nil => exact ⟨s, rfl, .refl ho hs⟩
  | cons i body ih =>
    obtain ⟨hi, hbody⟩ := List.forall_mem_cons.mp hbody
    have h := selectedSince_ended ho hs hi
    obtain ⟨t, ht, h'⟩ := ih h.life h.sel hbody
    exact ⟨t, by rw [runCommands, exec_eq_ended]; exact ht, h.trans h'⟩

/-- So does a body issued by a host that gives up at the first error. -/
theorem selectedSince_runUntilError (body : List Instr) {s : State} (ho : s.life = .opened) (hs : s.sel = .selected)
    (hbody : ∀ i ∈ body, i ≠ .release ∧ i ≠ .closeConn) :
    ∃ t, runUntilError body s = .next t ∧ SelectedSince s t := by
  induction body generalizing s with
  | nil => exact ⟨s, rfl, .refl ho hs⟩
  | cons i body ih =>
    obtain ⟨hi, hbody⟩ := List.forall_mem_cons.mp hbody
    have h := selectedSince_ended ho hs hi
    rw [runUntilError, exec_eq_ended, thenRun]
    split_ifs
    · obtain ⟨t, ht, h'⟩ := ih h.life h.sel hbody
      exact ⟨t, ht, h.trans h'⟩
    · exact ⟨s.ended i, rfl, h⟩

theorem ended_select {s : State} (ho : s.life = .opened) (hs : s.sel = .deselected) :
    s.ended .select = s.completed .select :=
  State.ended_of_ok (by simp [firstError, lifeWrong, selWrong, countTooLarge, lineAbsent, ho, hs])

theorem ended_release {s : State} (ho : s.life = .opened) (hs : s.sel = .selected) :
    s.ended .release = s.completed .release :=
  State.ended_of_ok (by simp [firstError, lifeWrong, selWrong, countTooLarge, lineAbsent, ho, hs])

/-- RELEASE of a selection that has been live since SELECT: one write of each level, the high one last. -/
theorem release_of_selectedSince {s u : State} (h : SelectedSince (s.completed .select) u) :
    ∃ t, exec .release u = .next t ∧ t.life = .opened ∧ t.sel = .deselected ∧ t.seln = .driven true ∧
      ∃ events, t.trace = s.trace ++ .write .sel false :: events ++ [.write .sel true] ∧ selectWrites events = [] := by
  obtain ⟨ho, hs, events, htrace, hevents⟩ := h
  refine ⟨u.completed .release, by rw [exec_eq_ended, ended_release ho hs], ho, rfl, rfl, events, ?_, hevents⟩
  simp [State.completed, htrace]

theorem runCommands_append (a b : List Instr) (s : State) :
    runCommands (a ++ b) s = thenRun (runCommands a s) (runCommands b) := by
  induction a generalizing s with
  | nil => rfl
  | cons i a ih => simp only [List.cons_append, runCommands, exec_eq_ended, thenRun, ih]

/-- Settles O13: whether or not the host gives up, the selection is live when RELEASE is issued. -/
theorem guardDeassertsSelectExactlyOnce : Obligations.GuardDeassertsSelectExactlyOnce := by
  intro body s ho hs hbody
  obtain ⟨u, hu, h⟩ := selectedSince_runUntilError body (s := s.completed .select) ho rfl hbody
  rw [runGuarded, exec_eq_ended, ended_select ho hs, thenRun, hu, thenRun]
  exact release_of_selectedSince h

/-- Settles O14: an error in the body ends no selection, so RELEASE finds it live. -/
theorem withSelDeassertsSelectExactlyOnce : Obligations.WithSelDeassertsSelectExactlyOnce := by
  intro body s ho hs hbody
  obtain ⟨u, hu, h⟩ := selectedSince_runCommands body (s := s.completed .select) ho rfl hbody
  obtain ⟨t, ht, h'⟩ := release_of_selectedSince h
  refine ⟨t, ?_, h'⟩
  rw [withSel, List.cons_append, runCommands, exec_eq_ended, ended_select ho hs, thenRun, runCommands_append, hu, thenRun,
    runCommands, ht]
  rfl

end Sys2Proof.Machine
end

section
/-! PROOFS. The family of `40_lifecycle.md`: OPEN, CLOSE, and what the block does outside an open Connection. -/

namespace Sys2Proof.Machine

variable {s t : State}

/-! ### The check of LIFE -/

/-- The check of `LIFE` is the first a command makes (rule R235). -/
theorem ended_of_lifeWrong {i : Instr} (h : lifeWrong i s = true) : s.ended i = s.raise .illegalState :=
  State.ended_of_error (if_pos h)

/-- Outside an open Connection `LIFE` is wrong for every command but OPEN, and after CLOSE for OPEN too (rule R121). -/
theorem lifeWrong_of_not_opened {i : Instr} (hl : s.life ≠ .opened)
    (hopen : ∀ order hasDout hasDin, i = .openConn order hasDout hasDin → s.life = .closed) : lifeWrong i s = true := by
  cases i with
  | openConn order hasDout hasDin => simp [lifeWrong, hopen order hasDout hasDin rfl]
  | _ => exact decide_eq_true hl

theorem ended_openConn (hu : s.life = .unopened) (order : BitOrder) (hasDout hasDin : Bool) :
    s.ended (.openConn order hasDout hasDin) = s.completed (.openConn order hasDout hasDin) :=
  State.ended_of_ok (by simp [firstError, lifeWrong, selWrong, countTooLarge, lineAbsent, hu])

theorem ended_closeConn (ho : s.life = .opened) : s.ended .closeConn = s.completed .closeConn :=
  State.ended_of_ok (by simp [firstError, lifeWrong, selWrong, countTooLarge, lineAbsent, ho])

/-- The op code stands in the word of every command. -/
theorem opField_encodeWord {i : Instr} (h : i.WellFormed = true) : opField (encodeWord i) = i.op :=
  (fields_of_decode (decode_encodeWord h)).1

/-! ### OPEN and CLOSE -/

/-- Settles O3: `LIFE` is the only check OPEN makes, and its closed form is the state of rule R112. -/
theorem openConstructsTheConnection : Obligations.OpenConstructsTheConnection := by
  intro order hasDout hasDin s
  refine ⟨opField_encodeWord rfl, fun hu => ?_, fun hu => ?_⟩ <;> rw [exec_eq_ended]
  · rw [ended_openConn hu]
    rfl
  · have hwrong : lifeWrong (.openConn order hasDout hasDin) s = true := decide_eq_true hu
    rw [ended_of_lifeWrong hwrong]
    rfl

/-- Settles O4: OPEN gives every register its value but an absent `dout`, which the invariant says is still undriven. -/
theorem idleInvariantAfterOpen : Obligations.IdleInvariantAfterOpen := by
  intro order hasDout hasDin s h hu
  have hdout : s.dout = .undriven := (h.unopened hu).dout
  refine ⟨s.completed (.openConn order hasDout hasDin), by rw [exec_eq_ended, ended_openConn hu],
    rfl, rfl, rfl, rfl, rfl, ?_, rfl, rfl⟩
  rw [← hdout]
  rfl

/-- Settles O5: `LIFE` is the only check CLOSE makes, and its closed form is the state of rule R118. -/
theorem closeReleasesTheLines : Obligations.CloseReleasesTheLines := by
  intro s
  refine ⟨opField_encodeWord rfl, fun ho => ?_, fun ho => ?_⟩ <;> rw [exec_eq_ended]
  · rw [ended_closeConn ho]
    rfl
  · have hwrong : lifeWrong .closeConn s = true := decide_eq_true ho
    rw [ended_of_lifeWrong hwrong]
    rfl

/-! ### Outside an open Connection -/

/-- Settles O6: the check of `LIFE` fails, and an error changes no more than its response says. -/
theorem nothingRunsOutsideAnOpenConnection : Obligations.NothingRunsOutsideAnOpenConnection := by
  intro i s hl hopen
  rw [exec_eq_ended, ended_of_lifeWrong (lifeWrong_of_not_opened hl hopen)]
  rfl

/-- After CLOSE a step leaves the Connection as it is: with no word nothing happens, a command fails the check of `LIFE`,
and a reserved word ends in its error. -/
theorem step_keeps_closed_connection (hb : s.busy = false) (hc : s.life = .closed) (hr : s.rst = false)
    (ht : step s = .next t) : t.connection = s.connection := by
  rcases step_idle_cases s hb with ⟨hr', -⟩ | ⟨-, -, e⟩ | ⟨w, rest, i, -, -, -, e⟩ | ⟨w, rest, r, -, -, -, e⟩
  · cases hr.symm.trans hr'
  · cases e.symm.trans ht
    rfl
  · have hwrong : lifeWrong i (s.accept rest) = true :=
      lifeWrong_of_not_opened (by simp [hc]) fun _ _ _ _ => hc
    rw [ended_of_lifeWrong hwrong] at e
    cases e.symm.trans ht
    rfl
  · cases e.symm.trans ht
    rfl

/-- Settles O7: a closed Connection runs no command and no step moves it; the invariant says that its lines are released. -/
theorem closedIsLeftOnlyByReset : Obligations.ClosedIsLeftOnlyByReset := by
  intro s t h hc hr ht
  obtain ⟨hb, hclk, hseln, -⟩ := h.closed hc
  have e : t.connection = s.connection := step_keeps_closed_connection hb hc hr ht
  exact ⟨(congrArg State.life e).trans hc, (congrArg State.trace e :), (congrArg State.clk e).trans hclk,
    (congrArg State.seln e).trans hseln, (congrArg State.dout e :), (congrArg State.cfg e :)⟩

end Sys2Proof.Machine
end

section
/-! PROOFS. The family of `41_select.md`: SELECT, RELEASE, the table of the slave-select state machine, and the commands in
which `SEL` plays no part. -/

namespace Sys2Proof.Machine

variable {s : State}

/-! ### The check of SEL -/

/-- A wrong `SEL` is refused like a wrong `LIFE`, so which of the two fails first is not seen (rule R235). -/
theorem ended_of_selWrong {i : Instr} (h : selWrong i s = true) : s.ended i = s.raise .illegalState := by
  refine State.ended_of_error ?_
  by_cases hl : lifeWrong i s = true
  · exact if_pos hl
  · exact (if_neg hl).trans (if_pos h)

/-- SELECT outside an open Connection, or while a selection is live (rule R133). -/
theorem ended_select_refused (h : s.life ≠ .opened ∨ s.sel = .selected) : s.ended .select = s.raise .illegalState := by
  rcases h with hl | hs
  · exact ended_of_lifeWrong (decide_eq_true hl)
  · exact ended_of_selWrong (decide_eq_true hs)

/-- RELEASE outside an open Connection, or with no live selection (rule R137). -/
theorem ended_release_refused (h : s.life ≠ .opened ∨ s.sel = .deselected) :
    s.ended .release = s.raise .illegalState := by
  rcases h with hl | hs
  · exact ended_of_lifeWrong (decide_eq_true hl)
  · exact ended_of_selWrong (decide_eq_true hs)

/-! ### SELECT and RELEASE -/

/-- Settles O9: SELECT that passes its checks has the state of rule R132 as its closed form, and the checks refuse it in all
other states. -/
theorem selectDrivesSelectLow : Obligations.SelectDrivesSelectLow := by
  intro s
  refine ⟨opField_encodeWord rfl, fun ho hs => ?_, fun h => ?_⟩ <;> rw [exec_eq_ended]
  · rw [ended_select ho hs]
    rfl
  · rw [ended_select_refused h]
    rfl

/-- Settles O10: RELEASE that passes its checks has the state of rule R136 as its closed form, and the checks refuse it in
all other states. -/
theorem releaseDrivesSelectHigh : Obligations.ReleaseDrivesSelectHigh := by
  intro s
  refine ⟨opField_encodeWord rfl, fun ho hs => ?_, fun h => ?_⟩ <;> rw [exec_eq_ended]
  · rw [ended_release ho hs]
    rfl
  · rw [ended_release_refused h]
    rfl

/-! ### The table of the state machine -/

/-- OPEN that passes its check writes the select line once, high (rule R112). -/
theorem selectWrites_performed_openConn (order : BitOrder) (hasDout hasDin : Bool) :
    selectWrites (s.performed (.openConn order hasDout hasDin)) = [.write .sel true] := by
  cases hasDout <;> rfl

/-- The last row of rule R131's table: in an open Connection OPEN fails, CLOSE releases the select line and writes nothing,
and SYNC and the transfers do not touch it. -/
theorem ended_keeps_sel {i : Instr} (ho : s.life = .opened) (hs : i ≠ .select) (hr : i ≠ .release) :
    (s.ended i).sel = s.sel ∧ ∃ events, (s.ended i).trace = s.trace ++ events ∧ selectWrites events = [] := by
  rcases State.ended_cases i s with ⟨e, -, he⟩ | ⟨hok, he⟩ <;> rw [he]
  · exact ⟨rfl, [], (List.append_nil _).symm, rfl⟩
  · cases i with
    | openConn => cases ho.symm.trans (unopened_of_firstError hok)
    | select => exact absurd rfl hs
    | release => exact absurd rfl hr
    | _ => exact ⟨rfl, _, s.completed_trace _, selectWrites_eq_nil (by rw [primitiveCounts_performed]; rfl)⟩

/-- Settles O11: the rows of SELECT, of RELEASE and of OPEN are read off their closed forms or the error, and the last row
holds of every other command. -/
theorem selectStateMachineFollowsItsTable : Obligations.SelectStateMachineFollowsItsTable := by
  refine ⟨rfl, fun i s t ht => ?_⟩
  rw [exec_eq_ended] at ht
  cases ht
  refine ⟨?_, ?_, ?_, ?_, ?_, ended_keeps_sel⟩
  · rintro ho hs rfl
    rw [ended_select ho hs]
    exact ⟨rfl, rfl, rfl⟩
  · rintro ho hs rfl
    rw [ended_release ho hs]
    exact ⟨rfl, rfl, rfl⟩
  · rintro - hs rfl
    rw [ended_select_refused (.inr hs)]
    exact ⟨hs, rfl, rfl⟩
  · rintro - hs rfl
    rw [ended_release_refused (.inr hs)]
    exact ⟨hs, rfl, rfl⟩
  · rintro order hasDout hasDin hu rfl
    rw [ended_openConn hu]
    exact ⟨rfl, _, s.completed_trace _, selectWrites_performed_openConn order hasDout hasDin, rfl⟩

/-! ### Commands in which the select state plays no part -/

/-- The state with another select state and another register of the select line. -/
def State.withSelect (s : State) (x : Sel) (r : LineReg) : State := { s with sel := x, seln := r }

/-- A change of the state that the checks do not see, and that the response and the closed form carry through, makes no
difference to how the command ends. -/
theorem ended_comm {i : Instr} {f : State → State} (hraise : ∀ e, (f s).raise e = f (s.raise e))
    (hchecks : firstError i (f s) = firstError i s) (hcompleted : (f s).completed i = f (s.completed i)) :
    (f s).ended i = f (s.ended i) := by
  rcases State.ended_cases i s with ⟨e, hfail, he⟩ | ⟨hok, he⟩
  · rw [he, State.ended_of_error (hchecks.trans hfail), hraise]
  · rw [he, State.ended_of_ok (hchecks.trans hok), hcompleted]

/-- Settles O12: neither a check nor the closed form of SYNC and the transfers looks at the select state or the select line,
nor do those of CLOSE at the select state, and OPEN overwrites both. -/
theorem selectStateGatesNoTransfer : Obligations.SelectStateGatesNoTransfer := by
  refine fun s x r => ⟨fun i t hi ht => ?_, fun t ht => ?_, fun order hasDout hasDin hu => ?_⟩
  · obtain ⟨-, -, hsel, hseln, -⟩ := transfersLeaveTheRestAlone i s t hi ht
    refine ⟨hsel, hseln, ?_⟩
    rw [exec_eq_ended] at ht
    cases ht
    have hform : firstError i (s.withSelect x r) = firstError i s ∧
        (s.withSelect x r).completed i = (s.completed i).withSelect x r := by
      rcases hi with rfl | ⟨b, rfl⟩ | rfl | ⟨n, rfl⟩ | ⟨v, n, rfl⟩ | ⟨v, n, rfl⟩ | ⟨v, n, rfl⟩ | ⟨v, n, rfl⟩ <;>
        exact ⟨rfl, rfl⟩
    have hcomm : (s.withSelect x r).ended i = (s.ended i).withSelect x r :=
      ended_comm (f := (·.withSelect x r)) (fun _ => rfl) hform.1 hform.2
    exact (exec_eq_ended i (s.withSelect x r)).trans (congrArg _ hcomm)
  · rw [exec_eq_ended] at ht
    cases ht
    have hcomm : (s.setSel x).ended .closeConn = (s.ended .closeConn).setSel x :=
      ended_comm (f := (·.setSel x)) (fun _ => rfl) rfl rfl
    exact (exec_eq_ended .closeConn (s.setSel x)).trans (congrArg _ hcomm)
  · have hopened := ended_openConn (s := s.withSelect x r) hu order hasDout hasDin
    rw [exec_eq_ended, exec_eq_ended, ended_openConn hu]
    exact congrArg _ hopened

end Sys2Proof.Machine
end

section
/-! PROOFS. The family of `42_clock.md`: SYNC, the shape of the pulses, the sequencer's phases and the pseudocode they
refine, and that a block which meets the invariant never stops. -/

namespace Sys2Proof.Machine

variable {s t : State}

/-! ### SYNC and the idle block -/

theorem ended_sync (ho : s.life = .opened) : s.ended .sync = s.completed .sync :=
  State.ended_of_ok (by simp [firstError, lifeWrong, selWrong, countTooLarge, lineAbsent, ho])

/-- Settles O15: `LIFE` is the only check SYNC makes, and its closed form is one pulse. -/
theorem syncPulsesTheClockOnce : Obligations.SyncPulsesTheClockOnce := by
  intro s
  refine ⟨opField_encodeWord rfl, fun ho => ⟨s.completed .sync, ?_, rfl⟩, fun ho => ?_⟩ <;> rw [exec_eq_ended]
  · rw [ended_sync ho]
  · have hwrong : lifeWrong .sync s = true := decide_eq_true ho
    rw [ended_of_lifeWrong hwrong]
    rfl

/-- Settles O44. -/
theorem idleBlockDoesNothing : Obligations.IdleBlockDoesNothing := by
  intro s hr hb hc
  simp only [step_idle hr hb, acceptNext, hc]

/-! ### The shape of the pulses -/

/-- Bits whose events have the shape make a transfer whose events have it. -/
theorem pulsesShaped_flatMap {events : Bool → List Event} (h : ∀ b, pulsesShaped (events b) = true) (bits : List Bool) :
    pulsesShaped (bits.flatMap events) = true := by
  induction bits with
  | nil => rfl
  | cons b bits ih =>
    rw [List.flatMap_cons]
    exact pulsesShaped_append (h b) ih

/-- Every command raises the clock in whole pulses only: SYNC, the writes and the reads; the others write it low or not at
all (rules R154, R155). -/
theorem pulsesShaped_performed (s : State) (i : Instr) : pulsesShaped (s.performed i) = true := by
  cases i with
  | openConn _ hasDout _ => cases hasDout <;> rfl
  | closeConn =>
    simp only [State.performed]
    cases s.cfg.hasDout <;> cases s.cfg.hasDin <;> rfl
  | select | release | sync => rfl
  | wrbit | wr8 | wr16 | wr32 | wr64 => exact pulsesShaped_flatMap (events := writeBitEvents) (fun _ => rfl) _
  | rdbit | rdn => exact pulsesShaped_flatMap (events := readBitEvents) (fun _ => rfl) _

/-- However a command ends, it keeps the shape. -/
theorem pulsesShaped_ended (h : pulsesShaped s.trace = true) (i : Instr) : pulsesShaped (s.ended i).trace = true := by
  rcases State.ended_cases i s with ⟨e, -, he⟩ | ⟨-, he⟩ <;> rw [he]
  · exact h
  · rw [State.completed_trace]
    exact pulsesShaped_append h (pulsesShaped_performed s i)

/-- Settles O16: a reset empties the trace, a command keeps the shape, and nothing else appends an event. -/
theorem everyStepKeepsThePulseShape : Obligations.EveryStepKeepsThePulseShape := by
  intro s t hb h ht
  rcases step_idle_cases s hb with ⟨-, e⟩ | ⟨-, -, e⟩ | ⟨w, rest, i, -, -, -, e⟩ | ⟨w, rest, r, -, -, -, e⟩ <;>
    rw [e] at ht <;> cases ht
  · rfl
  · exact h
  · exact pulsesShaped_ended (s := s.accept rest) h i
  · exact h

/-! ### The phase table -/

theorem firstPhase_eq_ite (k : Kind) : firstPhase k = if k = .write then .wData else .pHigh := by cases k <;> rfl

theorem transferData_eq_ite (s : State) : transferData s = if s.kind = .read then s.acc else 0 := by
  rw [transferData]
  cases s.kind <;> rfl

/-- In a transfer of at most 64 bits "next bit" answers what its rule says: the pulse index does not wrap. -/
theorem nextBit_follows (h1 : s.cnt.toNat < s.n.toNat) (h2 : s.n.toNat ≤ 64) :
    ∃ t, nextBit s = .next t ∧ NextBit s t := by
  have hcnt : (s.cnt + 1).toNat = s.cnt.toNat + 1 := toNat_cnt_succ h1 h2
  rcases nextBit_cases s with ⟨h, e⟩ | ⟨h, e⟩ | ⟨h, -⟩
  · exact ⟨_, e, fun _ => by rw [firstPhase_eq_ite], fun _ => by omega⟩
  · exact ⟨_, e, fun _ => by omega, fun _ => by rw [transferData_eq_ite]; rfl⟩
  · omega

/-- Settles O46: each row is its row of `tick`, and two of them end in "next bit". -/
theorem runningCommandFollowsThePhaseTable : Obligations.RunningCommandFollowsThePhaseTable := by
  intro s hr hb h1 h2
  rw [step_busy hr hb]
  refine ⟨fun hp => ⟨_, rfl, ?_⟩, fun hp => ?_, fun hp => tick_dwell_acked hp, fun hp _ _ => tick_dwell_held hp,
    fun hp hk => ?_, fun hp hk => ?_, fun hp => ?_⟩
  · rw [tick, hp, ← bitAt_eq_getLsbD (by decide)]
    rfl
  · rw [tick, hp]
    rfl
  · have e : tick s = .next ((s.lineWrite .clk false).setPhase .rSample) := by simp only [tick, hp, hk]
    rw [e]
    rfl
  · have e : tick s = nextBit (s.lineWrite .clk false) := by
      simp only [tick, hp]
      cases hkind : s.kind with
      | read => exact absurd hkind hk
      | pulse | write => rfl
    rw [e]
    exact nextBit_follows (s := s.lineWrite .clk false) h1 h2
  · rw [tick, hp]
    exact nextBit_follows (s := s.lineRead.accumulate s.sample) h1 h2

/-! ### A block that meets the invariant never stops -/

/-- A running transfer always has a next phase (rule R158). -/
theorem RunningState.exists_tick (r : RunningState s) : ∃ t, tick s = .next t := by
  have next {a : State} (hc : a.cnt = s.cnt) (hn : a.n = s.n) : ∃ t, nextBit a = .next t := by
    obtain ⟨t, ht, -⟩ := nextBit_follows (s := a) (by rw [hc, hn]; exact r.count) (by rw [hn]; exact r.width)
    exact ⟨t, ht⟩
  cases hp : s.phase with
  | idle => exact absurd hp r.phase
  | wData | pHigh => exact ⟨_, by rw [tick, hp]⟩
  | pDwell =>
    simp only [tick, hp]
    split_ifs <;> exact ⟨_, rfl⟩
  | pLow =>
    simp only [tick, hp]
    cases s.kind with
    | read => exact ⟨_, rfl⟩
    | pulse | write => exact next rfl rfl
  | rSample =>
    rw [tick, hp]
    exact next rfl rfl

/-- A machine whose commands start with an answer answers in every state that meets the invariant. -/
theorem Inv.exists_stepWith {start : Instr → State → Host.Outcome State Fault Refusal}
    (hstart : ∀ i a, ∃ t, start i a = .next t) (h : Inv s) : ∃ t, stepWith start s = .next t := by
  unfold stepWith
  split_ifs with hr hb
  · exact ⟨_, rfl⟩
  · exact (h.running hb).exists_tick
  · unfold acceptNext
    split
    next => exact ⟨_, rfl⟩
    next w rest _ =>
      split
      next i _ => exact hstart i (s.accept rest)
      next => exact ⟨_, rfl⟩

theorem exists_beginTransfer (k : Kind) (n : Nat) (v : Option Value) (s : State) :
    ∃ t, beginTransfer k n v s = .next t := by
  unfold beginTransfer
  split_ifs <;> exact ⟨_, rfl⟩

theorem beginCommand_of_error {i : Instr} {e : Status} (h : firstError i s = some e) :
    beginCommand i s = .next (s.raise e) := by
  rw [beginCommand, h]

theorem beginCommand_of_ok {i : Instr} (h : firstError i s = none) : beginCommand i s = startChecked i s := by
  rw [beginCommand, h]

theorem exists_beginCommand (i : Instr) (s : State) : ∃ t, beginCommand i s = .next t := by
  cases h : firstError i s with
  | some e => exact ⟨_, beginCommand_of_error h⟩
  | none =>
    rw [beginCommand_of_ok h]
    cases i <;> simp only [startChecked]
    case openConn | closeConn | select | release => exact ⟨_, exec_eq_ended _ s⟩
    all_goals exact exists_beginTransfer _ _ _ s

/-- Settles O53: every command starts with an answer on both machines, and the invariant keeps the sequencer in its
table. -/
theorem invStatesNeverStop : Obligations.InvStatesNeverStop :=
  fun _ h => ⟨h.exists_stepWith fun i a => ⟨_, exec_eq_ended i a⟩, h.exists_stepWith exists_beginCommand⟩

/-! ### How a transfer begins -/

/-- The second table of rule R156 says how each command that pulses the clock begins; no entry point is wider than 64
bits. -/
theorem beginCommand_of_row {i : Instr} {k : Kind} {n : Nat} {v : Option Value} (hrow : SequencerRow i k n v)
    (hok : firstError i s = none) : beginCommand i s = beginTransfer k n v s ∧ n ≤ 64 := by
  have hcount := countTooLarge_of_firstError hok
  rw [beginCommand_of_ok hok]
  rcases hrow with ⟨rfl, rfl, rfl, rfl⟩ | ⟨b, rfl, rfl, rfl, rfl⟩ | ⟨x, rfl, rfl, rfl⟩ | ⟨x, rfl, rfl, rfl⟩ |
    ⟨x, rfl, rfl, rfl⟩ | ⟨x, rfl, rfl, rfl⟩ | ⟨rfl, rfl, rfl, rfl⟩ | ⟨rfl, rfl, rfl⟩ <;>
    simp only [countTooLarge, decide_eq_false_iff_not] at hcount
  · exact ⟨rfl, by decide⟩
  · exact ⟨by cases b <;> rfl, by decide⟩
  · exact ⟨rfl, by omega⟩
  · exact ⟨rfl, by omega⟩
  · exact ⟨rfl, by omega⟩
  · exact ⟨rfl, by omega⟩
  · exact ⟨rfl, by decide⟩
  · exact ⟨rfl, by omega⟩

/-- Settles O47: the row gives the transfer that begins, whose count fits `N`. -/
theorem transferBeginsOnTheSequencer : Obligations.TransferBeginsOnTheSequencer := by
  intro i k n v s hrow hok
  obtain ⟨hbegin, hle⟩ := beginCommand_of_row hrow hok
  have hn : (BitVec.ofNat 8 n).toNat = n := toNat_ofNat_n hle
  have hval : ∀ x, v = some x → s.loadedVal v = x := by
    rintro x rfl
    rfl
  rw [hbegin]
  by_cases h0 : n = 0
  · exact ⟨_, if_pos h0, rfl, hn, hval, rfl, rfl, rfl, rfl, rfl, rfl, fun _ => ⟨rfl, rfl, rfl⟩, (absurd h0 ·)⟩
  · exact ⟨_, if_neg h0, rfl, hn, hval, rfl, rfl, rfl, rfl, rfl, rfl, (absurd · h0),
      fun _ => ⟨rfl, firstPhase_eq_ite k, rfl⟩⟩

/-! ### The phases of a whole transfer -/

/-- A transfer of `n` bits is at the start of bit `i` (rule R156). -/
structure AtBit (k : Kind) (n i : Nat) (s : State) : Prop where
  busy  : s.busy = true
  phase : s.phase = firstPhase k
  kind  : s.kind = k
  bits  : s.n = BitVec.ofNat 8 n
  bit   : s.cnt = BitVec.ofNat 7 i
  below : i < n
  width : n ≤ 64

theorem AtBit.idx {k : Kind} {n i : Nat} (h : AtBit k n i s) : s.idx = index i n s.cfg.order := by
  have := h.below
  have := h.width
  rw [State.idx, h.bit, h.bits, toNat_ofNat_cnt (by omega), toNat_ofNat_n h.width]

/-- A transfer that has begun is at the start of its first bit. -/
theorem atBit_beginTransfer (hb : s.busy = true) {k : Kind} {n : Nat} {v : Option Value} (h0 : n ≠ 0) (hn : n ≤ 64) :
    AtBit k n 0 ((s.datapath k n v 0 0).setPhase (firstPhase k)) :=
  ⟨hb, rfl, rfl, rfl, rfl, Nat.pos_of_ne_zero h0, hn⟩

/-- The transfer goes on to the start of bit `i`. -/
def State.startBit (s : State) (i : Nat) : State := { s with cnt := BitVec.ofNat 7 i, phase := firstPhase s.kind }

/-- The primitives of a bit that is not the last lead to the start of the next one. -/
theorem AtBit.next {k : Kind} {n i : Nat} (h : AtBit k n i s) (hmore : i + 1 < n) {a : State} (hb : a.busy = s.busy)
    (hk : a.kind = s.kind) (hN : a.n = s.n) (hc : a.cnt = s.cnt) :
    nextBit a = .next (a.startBit (i + 1)) ∧ AtBit k n (i + 1) (a.startBit (i + 1)) :=
  ⟨nextBit_more (hc.trans h.bit) (hN.trans h.bits) hmore h.width, hb.trans h.busy,
    congrArg firstPhase (hk.trans h.kind), hk.trans h.kind, hN.trans h.bits, rfl, hmore, h.width⟩

/-- The steps for which the delay primitive holds off: those of the next `Sleep`, and the others. -/
theorem sum_eq_headD_add_sum_tail (delays : List Nat) : delays.sum = delays.headD 0 + delays.tail.sum := by
  cases delays <;> rfl

/-- The steps for `left + 1` bits are those for one bit and for `left` more. -/
theorem steps_succ (f left : Nat) (delays : List Nat) :
    f + 4 * (left + 1) + delays.sum = f + 4 * left + delays.tail.sum + 4 + delays.headD 0 := by
  rw [sum_eq_headD_add_sum_tail]
  omega

/-- The bits of the pulse indices from `i` on, in a write of `n` bits of `VAL`. -/
def State.bitsFrom (s : State) (n i left : Nat) : List Bool :=
  (List.range' i left).map fun j => bitAt s.val (index j n s.cfg.order)

/-- From the start of bit `i` a write runs to its response: four phases and one `Sleep` for each bit left (rule R178). -/
theorem runPhases_writes {n i left : Nat} (h : AtBit .write n i s) (hl : i + left = n) (f : Nat) :
    runPhases (f + 4 * left + s.delays.sum) s =
      .next (State.respondOk { s.afterWrites (s.bitsFrom n i left) with cnt := BitVec.ofNat 7 n } 0) := by
  induction left generalizing i s with
  | zero => exact absurd h.below (by omega)
  | succ left ih =>
    have hbits : s.bitsFrom n i (left + 1) = bitAt s.val s.idx :: s.bitsFrom n (i + 1) left := by
      rw [h.idx]
      rfl
    rw [steps_succ, hbits, ← State.afterWrites_cons]
    rcases Nat.lt_or_ge (i + 1) n with hmore | hlast
    · obtain ⟨hnext, hat⟩ := h.next hmore (a := (s.lineWrite .dout (bitAt s.val s.idx)).pulse.setPhase .pLow)
        rfl rfl rfl rfl
      rw [runPhases_writeBit _ h.busy h.phase h.kind hnext]
      exact ih hat (by omega)
    · obtain rfl : left = 0 := by omega
      have hdata : transferData ((s.lineWrite .dout (bitAt s.val s.idx)).pulse.setPhase .pLow) = 0 :=
        (transferData_eq_ite _).trans (if_neg (by simp [h.kind]))
      rw [runPhases_writeBit _ h.busy h.phase h.kind (nextBit_last h.bit h.bits hl h.width), runPhases_done _ rfl,
        hdata, State.bitsFrom, List.range'_zero, List.map_nil, State.afterWrites_nil]
      rfl

/-- From the start of bit `i` a read runs to its response, with the samples of the pulse indices from `i` on in `ACC`
(rule R207). -/
theorem runPhases_reads {n i left : Nat} (h : AtBit .read n i s) (hl : i + left = n) (f : Nat) :
    runPhases (f + 4 * left + s.delays.sum) s =
      .next (State.respondOk
        { s.afterReads left with
          cnt := BitVec.ofNat 7 n
          acc := accumulated n s.cfg.order i s.acc (s.din.take left) }
        (accumulated n s.cfg.order i s.acc (s.din.take left))) := by
  induction left generalizing i s with
  | zero => exact absurd h.below (by omega)
  | succ left ih =>
    rw [steps_succ, ← State.afterReads_succ, Oracle.take_succ, accumulated, ← h.idx]
    rcases Nat.lt_or_ge (i + 1) n with hmore | hlast
    · obtain ⟨hnext, hat⟩ := h.next hmore (a := (s.pulse.setPhase .rSample).lineRead.accumulate s.din.next.1)
        rfl rfl rfl rfl
      rw [runPhases_readBit _ h.busy h.phase h.kind hnext]
      exact ih hat (by omega)
    · obtain rfl : left = 0 := by omega
      have hdata : transferData ((s.pulse.setPhase .rSample).lineRead.accumulate s.din.next.1) =
          if s.din.next.1 then setBit s.acc s.idx else s.acc := (transferData_eq_ite _).trans (if_pos h.kind)
      rw [runPhases_readBit _ h.busy h.phase h.kind (nextBit_last h.bit h.bits hl h.width), runPhases_done _ rfl,
        hdata, State.afterReads_zero]
      rfl

/-- SYNC on the sequencer. -/
theorem runPhases_sync (h : AtBit .pulse 1 0 s) (f : Nat) :
    runPhases (f + 3 + s.delays.headD 0) s = .next (State.respondOk { s.pulse with cnt := 1 } 0) := by
  have hdata : transferData (s.pulse.setPhase .pLow) = 0 := (transferData_eq_ite _).trans (if_neg (by simp [h.kind]))
  rw [runPhases_pulse _ h.busy h.phase h.kind (nextBit_last h.bit h.bits rfl h.width), runPhases_done _ rfl, hdata]
  rfl

/-! ### The sequencer and the pseudocode -/

/-- `stepsToEnd` is enough for a transfer of at most 64 bits. -/
theorem stepsToEnd_eq (s : State) {n : Nat} (hn : n ≤ 64) : s.stepsToEnd = (256 - 4 * n) + 4 * n + s.delays.sum := by
  rw [State.stepsToEnd, longestTransfer]
  omega

/-- A write that has begun runs to the closed form of its pseudocode. -/
theorem runPhases_beginTransfer_write (hb : s.busy = true) {n : Nat} (hn : n ≤ 64) (v : Value) :
    thenRun (beginTransfer .write n (some v) s) (runPhases s.stepsToEnd) = .next (s.wroteBits v n) := by
  rw [← endWrite_afterWrites, endWrite, BitVec.setWidth_eq, beginTransfer]
  by_cases h0 : n = 0
  · subst h0
    rw [if_pos rfl, thenRun, runPhases_done _ rfl, wireBits_zero, State.afterWrites_nil]
    rfl
  · have hat := atBit_beginTransfer hb (k := .write) (v := some v) h0 hn
    have hbits : ((s.datapath .write n (some v) 0 0).setPhase .wData).bitsFrom n 0 n = wireBits v n s.cfg.order := by
      simp [State.bitsFrom, wireBits_eq, List.range_eq_range', bitAt_eq_getLsbD]
    rw [if_neg h0, thenRun, stepsToEnd_eq s hn, ← hbits]
    exact runPhases_writes hat (Nat.zero_add n) _

/-- A read that has begun runs to the closed form of its pseudocode. -/
theorem runPhases_beginTransfer_read (hb : s.busy = true) {n : Nat} (hn : n ≤ 64) :
    thenRun (beginTransfer .read n none s) (runPhases s.stepsToEnd) = .next (s.didRead n) := by
  rw [← endRead_afterReads, endRead, beginTransfer]
  by_cases h0 : n = 0
  · subst h0
    rw [if_pos rfl, thenRun, runPhases_done _ rfl, State.afterReads_zero]
    rfl
  · have hat := atBit_beginTransfer hb (k := .read) (v := none) h0 hn
    have hdata := accumulated_eq_assembled (s.din.take n) s.cfg.order (by simpa using hn)
    rw [Oracle.length_take] at hdata
    rw [if_neg h0, thenRun, stepsToEnd_eq s hn, ← hdata]
    exact runPhases_reads hat (Nat.zero_add n) _

/-- SYNC that has begun runs to the closed form of its pseudocode. -/
theorem runPhases_beginTransfer_sync (hb : s.busy = true) :
    thenRun (beginTransfer .pulse 1 none s) (runPhases s.stepsToEnd) = .next (s.completed .sync) := by
  have hsteps : s.stepsToEnd = 253 + s.delays.tail.sum + 3 + s.delays.headD 0 := by
    rw [State.stepsToEnd, longestTransfer, sum_eq_headD_add_sum_tail]
    omega
  rw [beginTransfer, if_neg one_ne_zero, thenRun, hsteps]
  refine (runPhases_sync (atBit_beginTransfer hb one_ne_zero (by decide)) _).trans ?_
  simp [State.completed, State.finish]

/-- The entry points narrower than `VAL` write the same bits of it. -/
theorem State.wroteBits_setWidth {width n : Nat} (hn : n ≤ 64) (v : BitVec width) (s : State) :
    s.wroteBits (v.setWidth 64) n = s.wroteBits v n := by
  rw [State.wroteBits_congr (v := v) (v' := v.setWidth 64) fun k hk => by simp [show k < 64 by omega]]
  simp [State.wroteBits]

/-- A wide write that has begun, through an entry point of at most 64 bits. -/
theorem runPhases_beginTransfer_wideWrite (hb : s.busy = true) {width n : Nat} (hw : width ≤ 64)
    (hcount : decide (width < n) = false) (v : BitVec width) :
    thenRun (beginTransfer .write n (some (v.setWidth 64)) s) (runPhases s.stepsToEnd) = .next (s.wroteBits v n) := by
  have hn : n ≤ 64 := le_trans (by simpa using hcount) hw
  rw [runPhases_beginTransfer_write hb hn, State.wroteBits_setWidth hn]

/-- A command whose checks have passed, from its start on the sequencer to its closed form. -/
theorem runPhases_startChecked (hb : s.busy = true) {i : Instr} (hok : firstError i s = none) :
    thenRun (startChecked i s) (runPhases s.stepsToEnd) = .next (s.completed i) := by
  have hcount := countTooLarge_of_firstError hok
  cases i with
  | openConn | closeConn | select | release =>
    rw [startChecked, exec_eq_ended, State.ended_of_ok hok, thenRun]
    exact runPhases_done _ rfl
  | sync => exact runPhases_beginTransfer_sync hb
  | wrbit b => exact runPhases_beginTransfer_wideWrite hb (by decide : 1 ≤ 64) (n := 1) rfl (BitVec.ofBool b)
  | wr8 v n => exact runPhases_beginTransfer_wideWrite hb (by decide : 8 ≤ 64) hcount v
  | wr16 v n => exact runPhases_beginTransfer_wideWrite hb (by decide : 16 ≤ 64) hcount v
  | wr32 v n => exact runPhases_beginTransfer_wideWrite hb (by decide : 32 ≤ 64) hcount v
  | wr64 v n => exact runPhases_beginTransfer_write hb (by simpa [countTooLarge] using hcount) v
  | rdbit => exact runPhases_beginTransfer_read hb (by decide : 1 ≤ 64)
  | rdn n => exact runPhases_beginTransfer_read hb (by simpa [countTooLarge] using hcount)

/-- Settles O48: the first failing check ends a command at once on both sides; past the checks both sides reach the
closed form of the command. -/
theorem sequencerRefinesThePseudocode : Obligations.SequencerRefinesThePseudocode := by
  intro i s hb
  refine ⟨?_, s.ended i, exec_eq_ended i s, State.ended_busy i s⟩
  rw [exec_eq_ended]
  rcases State.ended_cases i s with ⟨e, hfail, he⟩ | ⟨hok, he⟩ <;> rw [he]
  · rw [beginCommand_of_error hfail, thenRun, runPhases_done _ rfl]
  · rw [beginCommand_of_ok hok, runPhases_startChecked hb hok]

theorem phaseStep_idle (hr : s.rst = false) (hb : s.busy = false) : phaseStep s = acceptNext beginCommand s := by
  simp only [phaseStep, stepWith, hr, hb, Bool.false_eq_true, if_false]

/-- Settles O49: with no word and with a reserved one both machines do the same, and no command is left running. -/
theorem phaseStepsAddUpToOneStep : Obligations.PhaseStepsAddUpToOneStep := by
  intro s hr hb
  rw [phaseStep_idle hr hb, step_idle hr hb]
  cases hc : s.cmds with
  | nil =>
    simp only [acceptNext, hc, thenRun]
    exact runPhases_done _ hb
  | cons w rest =>
    cases hd : decode w with
    | ok i =>
      simp only [acceptNext, hc, hd]
      exact (sequencerRefinesThePseudocode i (s.accept rest) rfl).1
    | error e =>
      simp only [acceptNext, hc, hd, thenRun]
      exact runPhases_done _ rfl

end Sys2Proof.Machine
end

section
/-! PROOFS. The family of `43_write.md`: WRBIT, the wide writes in closed form and their errors, the mirrored bit orders, and
the bits of a wide write written one at a time. -/

namespace Sys2Proof.Machine

variable {s : State} {i : Instr} {width n : Nat} {v : BitVec width}

/-! ### The bits on the wire -/

/-- `s_k` of rule R179. -/
theorem getD_wireBits (v : BitVec width) {k : Nat} (hk : k < n) (order : BitOrder) :
    (wireBits v n order).getD k false = v.getLsbD (index k n order) := by
  simp [wireBits_eq, hk]

/-- `s_{n-1}` of rule R179, the bit at which a write leaves `dout`. -/
theorem getLast?_wireBits (v : BitVec width) (n : Nat) (order : BitOrder) :
    (wireBits v n order).getLast? = if n = 0 then none else some (v.getLsbD (index (n - 1) n order)) := by
  rw [wireBits_eq, List.getLast?_map, List.getLast?_range]
  split_ifs <;> rfl

/-- Rule R187: pulse `k` under one order carries the bit of pulse `n - 1 - k` under the other. -/
theorem reverse_wireBits (v : BitVec width) (n : Nat) :
    (wireBits v n .mostSignificantFirst).reverse = wireBits v n .leastSignificantFirst := by
  refine List.ext_getElem (by simp) fun k _ _ => ?_
  simp [wireBits]

/-! ### Accepted and refused writes -/

/-- A wide write that passes the checks of rule R181. -/
theorem wideWrite_accepted (hw : 0 < width) (hn : n ≤ width) (ho : s.life = .opened)
    (hd : n = 0 ∨ s.cfg.hasDout = true) : wideWrite v n s = .next (s.wroteBits v n) := by
  have habsent : ¬ (1 ≤ n ∧ s.cfg.hasDout = false) := by
    rintro ⟨hpos, hno⟩
    rcases hd with h0 | hyes
    · omega
    · exact Bool.false_ne_true (hno.symm.trans hyes)
  rw [wideWrite_eq hw, if_neg (not_not_intro ho), if_neg (by omega), if_neg habsent]

/-- WRBIT through the body of the wide writes (rules R172, R180). -/
theorem exec_wrbit_eq_wideWrite (b : Bool) (s : State) : exec (.wrbit b) s = wideWrite (BitVec.ofBool b) 1 s :=
  execWrbit_eq_wideWrite b s

theorem exec_wrbit_accepted (ho : s.life = .opened) (hd : s.cfg.hasDout = true) (b : Bool) :
    exec (.wrbit b) s = .next (s.wroteBits (BitVec.ofBool b) 1) := by
  rw [exec_wrbit_eq_wideWrite, wideWrite_accepted (by omega) le_rfl ho (.inr hd)]

/-- Rule R181 c, d, in the order of the checks. -/
theorem failsAsAWrite_of_wideWrite (hi : exec i s = wideWrite v n s) (hw : 0 < width) : FailsAsAWrite i width n s := by
  refine ⟨fun ho => ?_, fun ho hn => ?_, fun ho hpos hn hd => ?_⟩ <;> rw [hi, wideWrite_eq hw]
  · rw [if_pos ho]
    rfl
  · rw [if_neg (not_not_intro ho), if_pos hn]
    rfl
  · rw [if_neg (not_not_intro ho), if_neg (by omega), if_pos ⟨hpos, hd⟩]
    rfl

/-- Settles O21: each wide write is one shared body at its own width. -/
theorem wideWritesFailWithoutEffect : Obligations.WideWritesFailWithoutEffect := fun n _ =>
  ⟨fun v => failsAsAWrite_of_wideWrite (v := v) (n := n) rfl (by decide),
    fun v => failsAsAWrite_of_wideWrite (v := v) (n := n) rfl (by decide),
    fun v => failsAsAWrite_of_wideWrite (v := v) (n := n) rfl (by decide),
    fun v => failsAsAWrite_of_wideWrite (v := v) (n := n) rfl (by decide)⟩

/-- Settles O19: WRBIT is the one-bit write of a one-bit value, accepted or refused. -/
theorem wrbitWritesOneBit : Obligations.WrbitWritesOneBit := by
  intro b s
  obtain ⟨hclosed, -, habsent⟩ := failsAsAWrite_of_wideWrite (exec_wrbit_eq_wideWrite b s) (by decide)
  refine ⟨opField_encodeWord rfl, fun ho hd => ⟨_, exec_wrbit_accepted ho hd b, ?_⟩, hclosed,
    fun ho hd => habsent ho le_rfl le_rfl hd⟩
  simp [State.wroteBits, State.observable, wireBits_one, writeBitEvents, pulseEvents]

/-! ### The closed form -/

/-- The closed form of rule R179 is what an accepted write leaves, `dout` being at the last bit on the wire. -/
theorem writesInClosedForm_of_wideWrite (hi : exec i s = wideWrite v n s) (hw : 0 < width) (hn : n ≤ width)
    (ho : s.life = .opened) (hd : n = 0 ∨ s.cfg.hasDout = true) : WritesInClosedForm i v n s := by
  refine ⟨s.wroteBits v n, wireBits v n s.cfg.order, hi.trans (wideWrite_accepted hw hn ho hd), by simp,
    fun k hk => ?_, ?_⟩
  · rw [getD_wireBits v hk]
    cases s.cfg.order <;> rfl
  · have hlast : (s.wroteBits v n).dout = if n = 0 then s.dout else
        match s.cfg.order with
        | .mostSignificantFirst => .driven (v.getLsbD (n - 1))
        | .leastSignificantFirst => .driven (v.getLsbD 0) := by
      rw [State.wroteBits, getLast?_wireBits]
      split_ifs
      · rfl
      · cases s.cfg.order <;> simp [index]
    exact congrArg (fun r => { s.wroteBits v n with dout := r }.observable) hlast

/-- Settles O20: each wide write is one shared body at its own width. -/
theorem wideWritesSendTheirBits : Obligations.WideWritesSendTheirBits := fun _ _ ho hd =>
  ⟨fun _ hn => writesInClosedForm_of_wideWrite rfl (by decide) hn ho hd,
    fun _ hn => writesInClosedForm_of_wideWrite rfl (by decide) hn ho hd,
    fun _ hn => writesInClosedForm_of_wideWrite rfl (by decide) hn ho hd,
    fun _ hn => writesInClosedForm_of_wideWrite rfl (by decide) hn ho hd⟩

/-! ### The two bit orders -/

/-- Both runs end in the closed form under their own order, and the one wire sequence is the other reversed. -/
theorem mirrorsTheBits_of_wideWrite (hi : ∀ s, exec i s = wideWrite v n s) (hw : 0 < width) (hn : n ≤ width)
    (ho : s.life = .opened) (hd : s.cfg.hasDout = true) : MirrorsTheBits i s := by
  have hrun (order : BitOrder) : exec i (s.withOrder order) = .next ((s.withOrder order).wroteBits v n) :=
    (hi _).trans (wideWrite_accepted hw hn ho (.inr hd))
  refine ⟨wireBits v n .mostSignificantFirst, _, _, hrun .mostSignificantFirst, hrun .leastSignificantFirst, rfl, ?_⟩
  rw [reverse_wireBits]
  rfl

/-- Settles O23: each wide write is one shared body at its own width. -/
theorem bitOrdersMirrorEachOther : Obligations.BitOrdersMirrorEachOther := fun _ _ ho hd =>
  ⟨fun v hn => mirrorsTheBits_of_wideWrite (v := v) (fun _ => rfl) (by decide) hn ho hd,
    fun v hn => mirrorsTheBits_of_wideWrite (v := v) (fun _ => rfl) (by decide) hn ho hd,
    fun v hn => mirrorsTheBits_of_wideWrite (v := v) (fun _ => rfl) (by decide) hn ho hd,
    fun v hn => mirrorsTheBits_of_wideWrite (v := v) (fun _ => rfl) (by decide) hn ho hd⟩

/-! ### A wide write and its bits written one at a time -/

/-- The observable state but for the responses, in which rule R180 compares the two runs. -/
def State.unanswered (s : State) : State := { s with responses := [] }.observable

/-- Writing bits looks neither at the responses nor at the datapath registers. -/
theorem State.unanswered_afterWrites (s : State) (bits : List Bool) :
    (s.afterWrites bits).unanswered = s.unanswered.afterWrites bits := rfl

/-- The first bit as a write of its own. -/
theorem State.afterWrites_singleton_afterWrites (s : State) (b : Bool) (bits : List Bool) :
    (s.afterWrites [b]).afterWrites bits = s.afterWrites (b :: bits) := by
  rw [← State.afterWrites_cons s b [], State.afterWrites_nil, State.afterWrites_cons]

/-- A write that has ended has written its wire bits, and the block is idle. -/
theorem State.unanswered_wroteBits (s : State) (v : BitVec width) (n : Nat) :
    (s.wroteBits v n).unanswered =
      (State.afterWrites { s with busy := false, phase := .idle } (wireBits v n s.cfg.order)).unanswered := by
  simp [State.unanswered, State.observable, State.wroteBits, State.afterWrites, ← List.length_eq_zero_iff]

/-- WRBIT commands issued one after another from an idle block write their bits and answer OK each. -/
theorem runCommands_wrbits (bits : List Bool) (ho : s.life = .opened) (hd : s.cfg.hasDout = true) (hb : s.busy = false)
    (hp : s.phase = .idle) :
    ∃ u, runCommands (bits.map .wrbit) s = .next u ∧ u.unanswered = (s.afterWrites bits).unanswered ∧
      u.responses = s.responses ++ List.replicate bits.length ⟨.ok, 0⟩ := by
  induction bits generalizing s with
  | nil => exact ⟨s, rfl, by rw [State.afterWrites_nil], by simp⟩
  | cons b bits ih =>
    obtain ⟨u, hu, hsame, hresp⟩ := ih (s := s.wroteBits (BitVec.ofBool b) 1) ho hd rfl rfl
    have hidle : { s with busy := false, phase := .idle } = s := by rw [← hb, ← hp]
    have hone : (s.wroteBits (BitVec.ofBool b) 1).unanswered = (s.afterWrites [b]).unanswered := by
      rw [State.unanswered_wroteBits, hidle, wireBits_one]
      cases b <;> rfl
    refine ⟨u, ?_, ?_, ?_⟩
    · rw [List.map_cons, runCommands, exec_wrbit_accepted ho hd]
      exact hu
    · rw [hsame, State.unanswered_afterWrites, hone, ← State.unanswered_afterWrites,
        State.afterWrites_singleton_afterWrites]
    · rw [hresp, List.length_cons, List.replicate_succ]
      simp [State.wroteBits]

/-- Both runs write the wire bits from the idle block and differ only in their responses. -/
theorem sameAsItsBits_of_wideWrite (hi : exec i s = wideWrite v n s) (hw : 0 < width) (hn : n ≤ width)
    (ho : s.life = .opened) (hd : s.cfg.hasDout = true) : SameAsItsBits i v n s := by
  obtain ⟨u, hu, hsame, hresp⟩ :=
    runCommands_wrbits (s := { s with busy := false, phase := .idle }) (wireBits v n s.cfg.order) ho hd rfl rfl
  rw [length_wireBits] at hresp
  exact ⟨s.wroteBits v n, u, hi.trans (wideWrite_accepted hw hn ho (.inr hd)), hu,
    (s.unanswered_wroteBits v n).trans hsame.symm, rfl, hresp⟩

/-- Settles O24: each wide write is one shared body at its own width. -/
theorem wideWriteIsItsBitsOneAtATime : Obligations.WideWriteIsItsBitsOneAtATime := fun _ _ ho hd =>
  ⟨fun _ hn => sameAsItsBits_of_wideWrite rfl (by decide) hn ho hd,
    fun _ hn => sameAsItsBits_of_wideWrite rfl (by decide) hn ho hd,
    fun _ hn => sameAsItsBits_of_wideWrite rfl (by decide) hn ho hd,
    fun _ hn => sameAsItsBits_of_wideWrite rfl (by decide) hn ho hd⟩

end Sys2Proof.Machine
end

section
/-! PROOFS. The family of `44_read.md`: RDBIT and RDN in closed form and their errors, the bits of a wide read taken one
at a time, and a read after a write. -/

namespace Sys2Proof.Machine

variable {s : State} {i : Instr} {width n : Nat} {v : BitVec width} {bs : List Bool}

/-! ### The assembled value -/

/-- Both orders place the bits by an involution of the pulse indices (rule R60). -/
theorem index_index {k n : Nat} (order : BitOrder) (hk : k < n) : index (index k n order) n order = k := by
  cases order <;> simp only [index]
  omega

/-- Bit `j` of the value read, where it fits the response. -/
theorem getLsbD_ofNat_assembled (hlen : bs.length ≤ 64) (order : BitOrder) (j : Nat) :
    (BitVec.ofNat 64 (assembled bs order)).getLsbD j =
      (decide (j < bs.length) && bs.getD (index j bs.length order) false) := by
  rw [BitVec.getLsbD_ofNat, testBit_assembled]
  by_cases hj : j < bs.length
  · rw [decide_eq_true (show j < 64 by omega), Bool.true_and]
  · rw [decide_eq_false hj, Bool.false_and, Bool.and_false]

/-- Rule R208: sample `k` stands in the bit that the index formula gives. -/
theorem getLsbD_index_ofNat_assembled (hlen : bs.length ≤ 64) (order : BitOrder) {k : Nat} (hk : k < bs.length) :
    (BitVec.ofNat 64 (assembled bs order)).getLsbD (index k bs.length order) = bs.getD k false := by
  rw [getLsbD_ofNat_assembled hlen, index_index order hk, decide_eq_true (index_lt order hk), Bool.true_and]

/-- Rule R208: `data[63:n] = 0`. -/
theorem getLsbD_ofNat_assembled_of_le (hlen : bs.length ≤ 64) (order : BitOrder) {k : Nat} (hk : bs.length ≤ k) :
    (BitVec.ofNat 64 (assembled bs order)).getLsbD k = false := by
  rw [getLsbD_ofNat_assembled hlen, decide_eq_false (by omega), Bool.false_and]

/-- Rule R212: the read puts each wire bit back where the write took it from. -/
theorem assembled_wireBits (v : BitVec width) (n : Nat) (order : BitOrder) :
    assembled (wireBits v n order) order = v.toNat % 2 ^ n := by
  refine Nat.eq_of_testBit_eq fun j => ?_
  rw [testBit_assembled, length_wireBits, Nat.testBit_mod_two_pow, BitVec.testBit_toNat]
  by_cases hj : j < n
  · rw [getD_wireBits v (index_lt order hj), index_index order hj]
  · simp [hj]

/-- A line that holds its level reads as all ones or as zero, whatever the order. -/
theorem assembled_replicate (n : Nat) (b : Bool) (order : BitOrder) :
    assembled (List.replicate n b) order = if b then 2 ^ n - 1 else 0 := by
  refine Nat.eq_of_testBit_eq fun j => ?_
  rw [testBit_assembled, List.length_replicate]
  by_cases hj : j < n
  · cases b <;> simp [hj, index_lt order hj]
  · cases b <;> simp [hj]

/-! ### Accepted and refused reads -/

/-- RDN that passes the checks of rule R210. -/
theorem exec_rdn_accepted (ho : s.life = .opened) (hn : n ≤ 64) (hd : n = 0 ∨ s.cfg.hasDin = true) :
    exec (.rdn n) s = .next (s.didRead n) := by
  have habsent : ¬ (1 ≤ n ∧ s.cfg.hasDin = false) := by
    rcases hd with rfl | hd
    · simp
    · simp [hd]
  rw [exec, execRdn_eq, if_neg (not_not_intro ho), if_neg (by omega), if_neg habsent]

/-- Settles O27: the checks of rule R235 come before any pulse, in this order. -/
theorem rdnFailsWithoutEffect : Obligations.RdnFailsWithoutEffect := by
  intro n s
  -- The count is not part of the op code, whether or not it fits the command word.
  have hop : opField (encodeWord (.rdn n)) = 0x7 := opField_packWord ..
  refine ⟨hop, fun ho => ?_, fun ho hn => ?_, fun ho hpos hn hd => ?_⟩ <;> rw [exec, execRdn_eq]
  · rw [if_pos ho]
    rfl
  · rw [if_neg (not_not_intro ho), if_pos hn]
    rfl
  · rw [if_neg (not_not_intro ho), if_neg (by omega), if_pos ⟨hpos, hd⟩]
    rfl

/-- Settles O26: an accepted RDN ends in the closed form, whose data are the samples placed by the index formula. -/
theorem rdnAssemblesItsSamples : Obligations.RdnAssemblesItsSamples := by
  intro n s ho hn hd
  have hlen : (s.din.take n).length = n := Oracle.length_take ..
  refine ⟨s.didRead n, BitVec.ofNat 64 (assembled (s.din.take n) s.cfg.order), exec_rdn_accepted ho hn hd,
    fun k hk => ?_, fun k hk => getLsbD_ofNat_assembled_of_le (by omega) _ (by omega), rfl⟩
  rw [← getLsbD_index_ofNat_assembled (by omega) s.cfg.order (by omega), hlen]
  cases s.cfg.order <;> rfl

/-! ### RDBIT -/

/-- The response data of one sample (rule R202). -/
theorem ofNat_assembled_singleton (b : Bool) (order : BitOrder) :
    BitVec.ofNat 64 (assembled [b] order) = if b then 1 else 0 := by
  rw [assembled_singleton]
  cases b <;> rfl

/-- RDBIT through the body of RDN (rule R210 e). -/
theorem exec_rdbit_eq_exec_rdn (s : State) : exec .rdbit s = exec (.rdn 1) s := execRdbit_eq_execRdn s

theorem exec_rdbit_accepted (ho : s.life = .opened) (hd : s.cfg.hasDin = true) :
    exec .rdbit s = .next (s.didRead 1) := by
  rw [exec_rdbit_eq_exec_rdn, exec_rdn_accepted ho (by decide) (.inr hd)]

/-- The response of a one-bit read, whatever the order. -/
theorem State.didRead_one_responses (s : State) :
    (s.didRead 1).responses = s.responses ++ [⟨.ok, if s.din.next.1 then 1 else 0⟩] := by
  rw [← ofNat_assembled_singleton s.din.next.1 s.cfg.order]
  rfl

/-- Settles O25: RDBIT is the read of one bit, accepted or refused. -/
theorem rdbitReadsOneBit : Obligations.RdbitReadsOneBit := by
  intro s
  obtain ⟨-, hclosed, -, habsent⟩ := rdnFailsWithoutEffect 1 s
  rw [← exec_rdbit_eq_exec_rdn] at hclosed habsent
  refine ⟨opField_encodeWord rfl, fun ho hd => ⟨_, exec_rdbit_accepted ho hd, ?_⟩, hclosed,
    fun ho hd => habsent ho le_rfl (by decide) hd⟩
  rw [← State.didRead_one_responses]
  rfl

/-! ### A wide read and its bits read one at a time -/

/-- Reading bits looks neither at the responses nor at the datapath registers. -/
theorem State.unanswered_afterReads (s : State) (n : Nat) :
    (s.afterReads n).unanswered = s.unanswered.afterReads n := rfl

/-- The first bit as a read of its own. -/
theorem State.afterReads_one_afterReads (s : State) (n : Nat) :
    (s.afterReads 1).afterReads n = s.afterReads (n + 1) := by
  rw [← State.afterReads_succ s 0, State.afterReads_zero, State.afterReads_succ]

/-- A read that has ended has taken its samples, and the block is idle. -/
theorem State.unanswered_didRead (s : State) (n : Nat) :
    (s.didRead n).unanswered = (State.afterReads { s with busy := false, phase := .idle } n).unanswered := rfl

/-- RDBIT commands issued one after another from an idle block take their samples and answer OK with each. -/
theorem runCommands_rdbits (n : Nat) (ho : s.life = .opened) (hd : s.cfg.hasDin = true) (hb : s.busy = false)
    (hp : s.phase = .idle) :
    ∃ u, runCommands (List.replicate n .rdbit) s = .next u ∧ u.unanswered = (s.afterReads n).unanswered ∧
      u.responses = s.responses ++ (s.din.take n).map fun b => ⟨.ok, if b then 1 else 0⟩ := by
  induction n generalizing s with
  | zero => exact ⟨s, rfl, by rw [State.afterReads_zero], by simp [Oracle.take]⟩
  | succ n ih =>
    obtain ⟨u, hu, hsame, hresp⟩ := ih (s := s.didRead 1) ho hd rfl rfl
    have hidle : { s with busy := false, phase := .idle } = s := by rw [← hb, ← hp]
    refine ⟨u, ?_, ?_, ?_⟩
    · rw [List.replicate_succ, runCommands, exec_rdbit_accepted ho hd]
      exact hu
    · rw [hsame, State.unanswered_afterReads, State.unanswered_didRead, hidle, ← State.unanswered_afterReads,
        State.afterReads_one_afterReads]
    · rw [hresp, State.didRead_one_responses, List.append_assoc]
      rfl

/-- Settles O28: both runs take the same samples from the idle block and differ only in their responses. -/
theorem wideReadIsItsBitsOneAtATime : Obligations.WideReadIsItsBitsOneAtATime := by
  intro n s ho hd hn
  obtain ⟨u, hu, hsame, hresp⟩ := runCommands_rdbits (s := { s with busy := false, phase := .idle }) n ho hd rfl rfl
  have hlen : (s.din.take n).length = n := Oracle.length_take ..
  refine ⟨s.didRead n, u, BitVec.ofNat 64 (assembled (s.din.take n) s.cfg.order), exec_rdn_accepted ho hn (.inr hd), hu,
    (s.unanswered_didRead n).trans hsame.symm, rfl, fun k hk => getLsbD_ofNat_assembled_of_le (by omega) _ (by omega),
    _, hresp, by simp, fun k hk => ?_⟩
  have hbit := getLsbD_index_ofNat_assembled (bs := s.din.take n) (by omega) s.cfg.order (k := k) (by omega)
  rw [hlen] at hbit
  rw [hbit]
  simp [List.getD_eq_getElem?_getD, hk]

/-! ### A read after a write -/

/-- Where enough answers are listed, the ones after them are left. -/
theorem Oracle.answers_after (o : Oracle) (bits rest : List Bool) (h : o.answers = bits ++ rest) :
    (o.after bits.length).answers = rest := by
  induction bits generalizing o with
  | nil => exact h
  | cons b bits ih =>
    have hnext : o.next.2.answers = bits ++ rest := by simp [Oracle.next, h]
    rw [List.length_cons, Oracle.after_succ, ih _ hnext]

/-- A write of `n` bits leaves the peripheral's answers to the read after it, which assembles them under the same
order. -/
theorem runCommands_write_rdn (hi : exec i s = .next (s.wroteBits v n)) (ho : s.life = .opened)
    (hd : s.cfg.hasDin = true) (hn : n ≤ 64) {samples rest : List Bool} (hlen : samples.length = n)
    (hanswers : s.din.answers = samples ++ rest) :
    ∃ t, runCommands [i, .rdn n] s = .next t ∧ t.din.answers = rest ∧
      t.responses = s.responses ++ [⟨.ok, 0⟩, ⟨.ok, BitVec.ofNat 64 (assembled samples s.cfg.order)⟩] := by
  subst hlen
  have hread := exec_rdn_accepted (s := s.wroteBits v samples.length) ho hn (.inr hd)
  have hdata : (s.wroteBits v samples.length).din.take samples.length = samples :=
    Oracle.take_of_answers _ _ _ hanswers
  refine ⟨(s.wroteBits v samples.length).didRead samples.length, ?_, s.din.answers_after samples rest hanswers, ?_⟩
  · rw [runCommands, hi, thenRun, runCommands, hread]
    rfl
  · rw [State.didRead, hdata]
    exact List.append_assoc ..

/-- The echo plays back the wire bits, the bare wire the last of them. -/
theorem readsBack_of_wideWrite (hi : exec i s = wideWrite v n s) (hw : 0 < width) (hw64 : width ≤ 64) (hn : n ≤ width)
    (ho : s.life = .opened) (hdout : s.cfg.hasDout = true) (hdin : s.cfg.hasDin = true) : ReadsBack i v n s := by
  have hwrite := hi.trans (wideWrite_accepted hw hn ho (.inr hdout))
  refine ⟨fun rest hecho => ?_, fun rest last _ hwire => ?_⟩
  · rw [← assembled_wireBits v n s.cfg.order]
    exact runCommands_write_rdn hwrite ho hdin (hn.trans hw64) (length_wireBits ..) hecho
  · have hdata : BitVec.ofNat 64 (assembled (List.replicate n last) s.cfg.order) =
        if last then BitVec.ofNat 64 (2 ^ n - 1) else 0 := by
      rw [assembled_replicate]
      cases last <;> rfl
    rw [← hdata]
    exact runCommands_write_rdn hwrite ho hdin (hn.trans hw64) List.length_replicate hwire

/-- Settles O29: each wide write is one shared body at its own width. -/
theorem readAfterWriteThroughAnEcho : Obligations.ReadAfterWriteThroughAnEcho := fun _ _ ho hdout hdin =>
  ⟨fun _ hn => readsBack_of_wideWrite rfl (by decide) (by decide) hn ho hdout hdin,
    fun _ hn => readsBack_of_wideWrite rfl (by decide) (by decide) hn ho hdout hdin,
    fun _ hn => readsBack_of_wideWrite rfl (by decide) (by decide) hn ho hdout hdin,
    fun _ hn => readsBack_of_wideWrite rfl (by decide) (by decide) hn ho hdout hdin⟩

end Sys2Proof.Machine
end

section
/-! PROOFS. The family of `60_exceptions.md`: the response to each word, what an error leaves unchanged, when a program is at
fault, and the end of its run. -/

namespace Sys2Proof.Machine

variable {s : State}

/-! ### The response to a word -/

/-- `t` is `s` after one command: the ports keep their words, the block is idle, and there is one response more. -/
structure Answered (s t : State) (status : Status) : Prop where
  cmds      : t.cmds = s.cmds
  rst       : t.rst = s.rst
  busy      : t.busy = false
  phase     : t.phase = .idle
  responses : ∃ data, t.responses = s.responses ++ [⟨status, data⟩]

theorem answered_raise (s : State) (e : Status) : Answered s (s.raise e) e := ⟨rfl, rfl, rfl, rfl, 0, rfl⟩

/-- A command that passes its checks answers OK, with what it read as data. -/
theorem answered_completed (s : State) (i : Instr) : Answered s (s.completed i) .ok := by
  cases i <;> exact ⟨rfl, rfl, rfl, rfl, _, rfl⟩

theorem answered_ended (s : State) (i : Instr) : Answered s (s.ended i) ((firstError i s).getD .ok) := by
  rcases State.ended_cases i s with ⟨e, hfail, he⟩ | ⟨hok, he⟩ <;> rw [he]
  · rw [hfail]
    exact answered_raise s e
  · rw [hok]
    exact answered_completed s i

/-- The status that answers a word: the op code is the first check, and the command's own checks follow (rule R235). -/
def State.wordStatus (s : State) (w : CmdWord) : Status :=
  match decode w with
  | .error _ => .illegalCommand
  | .ok i => (firstError i s).getD .ok

theorem State.wordStatus_of_ok {w : CmdWord} {i : Instr} (h : decode w = .ok i) :
    s.wordStatus w = (firstError i s).getD .ok := by simp only [State.wordStatus, h]

theorem State.wordStatus_of_error {w : CmdWord} {r : Reject} (h : decode w = .error r) :
    s.wordStatus w = .illegalCommand := by simp only [State.wordStatus, h]

/-- No check looks at the port or at `BUSY`. -/
theorem firstError_accept (i : Instr) (s : State) (rest : List CmdWord) : firstError i (s.accept rest) = firstError i s := by
  cases i <;> rfl

/-- An idle block answers the word presented to it, in one step. -/
theorem step_answers {w : CmdWord} {rest : List CmdWord} (hr : s.rst = false) (hb : s.busy = false)
    (hc : s.cmds = w :: rest) : ∃ t, step s = .next t ∧ Answered (s.accept rest) t (s.wordStatus w) := by
  cases hd : decode w with
  | ok i =>
    refine ⟨_, (stepRunsTheDecodedCommand s w rest i hr hb hc hd).trans (exec_eq_ended i (s.accept rest)), ?_⟩
    rw [State.wordStatus_of_ok hd, ← firstError_accept i s rest]
    exact answered_ended (s.accept rest) i
  | error r =>
    refine ⟨(s.accept rest).reservedCommand, by simp only [step_idle hr hb, acceptNext, hc, hd], ?_⟩
    rw [State.wordStatus_of_error hd]
    exact answered_raise (s.accept rest) .illegalCommand

/-- Settles O33: the step answers the word with the status of its first failing check. -/
theorem firstFailingCheckDecidesTheResponse : Obligations.FirstFailingCheckDecidesTheResponse := by
  intro s w rest hr hb hc
  obtain ⟨t, ht, ⟨hcmds, -, hbusy, -, data, hresp⟩⟩ := step_answers hr hb hc
  exact ⟨t, data, ht, hcmds, hbusy, hresp⟩

/-! ### A command that ends with an error -/

/-- Settles O34: a command whose response is not OK failed a check, and so did nothing but give that response. -/
theorem failedCommandHasNoEffect : Obligations.FailedCommandHasNoEffect := by
  intro i s t r ht hresp hr
  rw [exec_eq_ended] at ht
  cases ht
  rcases State.ended_cases i s with ⟨e, -, he⟩ | ⟨-, he⟩ <;> rw [he] at hresp ⊢
  · have hre : (⟨e, 0⟩ : Response) = r := by simpa [State.raise] using hresp
    rw [← hre]
    rfl
  · obtain ⟨-, -, -, -, data, hdata⟩ := answered_completed s i
    have hrok : (⟨.ok, data⟩ : Response) = r := by simpa [hdata] using hresp
    exact absurd (congrArg Response.status hrok).symm hr

/-! ### Programs at fault -/

/-- A failing check names one of the three errors (rule R235). -/
theorem firstError_ne_some_ok (i : Instr) (s : State) : firstError i s ≠ some .ok := by
  unfold firstError
  split_ifs <;> simp

theorem programAtFault_raise {e : Status} (he : e ≠ .ok) : (s.raise e).programAtFault = true := by
  simp [State.programAtFault, State.raise, Response.atFault, he]

/-- After CLOSE no command passes its checks (rule R121). -/
theorem not_closed_of_firstError {i : Instr} (h : firstError i s = none) : s.life ≠ .closed := by
  cases i with
  | openConn => simp [unopened_of_firstError h]
  | _ => simp [opened_of_firstError h]

/-- Of the commands that pass their checks only CLOSE leads out of an open Connection, and it keeps `SEL` (rule R118). -/
theorem closedSelected_completed {i : Instr} (h : firstError i s = none) :
    (s.completed i).closedSelected = true ↔ i = .closeConn ∧ s.sel = .selected := by
  cases i with
  | openConn | closeConn => simp [State.closedSelected, State.completed]
  | _ =>
    have ho : s.life = .opened := opened_of_firstError h (by simp)
    simp [State.closedSelected, State.completed, State.wroteBits, State.didRead, ho]

theorem programAtFault_completed {i : Instr} (h : firstError i s = none) :
    (s.completed i).programAtFault = true ↔ s.programAtFault = true ∨ (i = .closeConn ∧ s.sel = .selected) := by
  obtain ⟨-, -, -, -, data, hresp⟩ := answered_completed s i
  have hbefore : s.closedSelected = false := by simp [State.closedSelected, not_closed_of_firstError h]
  simp [State.programAtFault, hresp, Response.atFault, hbefore, closedSelected_completed h]

/-- Everything that can put a program at fault, by the command it issues: it was at fault before, a check fails, or the
Connection is closed while a selection is live. -/
theorem programAtFault_ended (i : Instr) (s : State) :
    (s.ended i).programAtFault = true ↔
      s.programAtFault = true ∨ firstError i s ≠ none ∨ (i = .closeConn ∧ s.sel = .selected) := by
  rcases State.ended_cases i s with ⟨e, hfail, he⟩ | ⟨hok, he⟩ <;> rw [he]
  · have hne : e ≠ .ok := fun h => firstError_ne_some_ok i s (h ▸ hfail)
    exact iff_of_true (programAtFault_raise hne) (.inr (.inl (by simp [hfail])))
  · simp [programAtFault_completed hok, hok]

/-- Settles O35: the first four clauses are what can put a program at fault; a reserved word ends in an error. -/
theorem brokenDutiesPutTheProgramAtFault : Obligations.BrokenDutiesPutTheProgramAtFault := by
  refine ⟨fun i s t ht => ?_, fun s w rest hr hb hc hop => ?_⟩
  · rw [exec_eq_ended] at ht
    cases ht
    have hiff := programAtFault_ended i s
    refine ⟨fun hfail => hiff.2 (.inr (.inl hfail)), fun hi hs => hiff.2 (.inr (.inr ⟨hi, hs⟩)),
      fun hbefore => hiff.2 (.inl hbefore), fun hbefore hok hclose => ?_⟩
    rw [← Bool.not_eq_true, hiff]
    rintro (h | h | ⟨hi, hs⟩)
    · cases hbefore.symm.trans h
    · exact h hok
    · cases (hclose hi).symm.trans hs
  · exact ⟨_, (reservedOpEndsInIllegalCommand w hop).2 s rest hr hb hc,
      programAtFault_raise (s := s.accept rest) (e := .illegalCommand) (by decide)⟩

/-! ### The end of a run -/

/-- A ready block answers the words at its port one by one, and is then at the end of the run. -/
theorem run_answers_every_word (words : List CmdWord) (hr : s.rst = false) (hb : s.busy = false) (hp : s.phase = .idle)
    (hc : s.cmds = words) :
    ∃ t, Sys2Proof.core.run words.length s = .next t ∧ t.atEndOfRun = true ∧
      t.responses.length = s.responses.length + words.length := by
  induction words generalizing s with
  | nil => exact ⟨s, rfl, by simp [State.atEndOfRun, hr, hb, hp, hc], rfl⟩
  | cons w rest ih =>
    obtain ⟨s1, hstep, ⟨hcmds, hrst, hbusy, hphase, data, hresp⟩⟩ := step_answers hr hb hc
    obtain ⟨t, hrun, hend, hlen⟩ := ih (hrst.trans hr) hbusy hphase hcmds
    have hone : s1.responses.length = s.responses.length + 1 := by simp [hresp]
    refine ⟨t, (core_run_succ rest.length hstep).trans hrun, hend, ?_⟩
    rw [hlen, hone, List.length_cons]
    omega

/-- Settles O55: the block is ready after reset, and has given no response yet. -/
theorem everyProgramRunsToItsEnd : Obligations.EveryProgramRunsToItsEnd := by
  intro words peripheral
  obtain ⟨t, hrun, hend, hlen⟩ :=
    run_answers_every_word (s := { State.reset with cmds := words, din := peripheral }) words rfl rfl rfl rfl
  exact ⟨t, hrun, hend, hlen.trans (Nat.zero_add _)⟩

end Sys2Proof.Machine
end

section
/-! PROOFS. The family of `70_reset_and_hazards.md`: what a reset leaves of any state, and the least time a transfer
takes. -/

namespace Sys2Proof.Machine

variable {s : State}

/-! ### Reset -/

/-- A reset request comes before anything else a step could do (rule R262). -/
theorem step_reset (hr : s.rst = true) : step s = .next s.applyReset := by
  simp only [step, stepWith, hr, if_true]

/-- Settles O2: the step applies the reset, which looks at nothing of the block. -/
theorem resetLandsInEveryState : Obligations.ResetLandsInEveryState := fun s hr =>
  ⟨s.applyReset, step_reset hr, rfl, rfl, rfl, rfl, rfl, rfl, rfl, rfl, rfl, rfl, rfl, rfl⟩

/-! ### The least time of a transfer -/

/-- Of all the primitives only the dwells take time (rules R53, R56). -/
theorem leastTime_eq_sleep_mul_dwell (trace : List Event) :
    leastTime trace = (primitiveCounts trace).sleep * Config.dwell := by
  induction trace with
  | nil => exact (Nat.zero_mul _).symm
  | cons e trace ih =>
    have hone : leastTime [e] = (primitiveCounts [e]).sleep * Config.dwell := by
      cases e <;> simp [leastTime, Event.leastTime, primitiveCounts]
    rw [← List.singleton_append, leastTime_append, primitiveCounts_append, hone, ih, Nat.add_mul]

/-- Settles O17: the table of rule R57 gives a transfer of `n` bits `n` dwells. -/
theorem transferTakesNDwells : Obligations.TransferTakesNDwells := by
  intro n s t i hi hok ht
  obtain ⟨events, htrace, hcounts, -⟩ := primitiveCountsFollowTheTable i s t ht
  have hsleep : (primitiveTable i s.cfg).sleep = n := by
    rcases hi with rfl | ⟨v, rfl⟩ | ⟨v, rfl⟩ | ⟨v, rfl⟩ | ⟨v, rfl⟩ <;> rfl
  rw [htrace, leastTime_append, leastTime_eq_sleep_mul_dwell events, hcounts hok, hsleep]

end Sys2Proof.Machine
end

section
/-! PROOFS. The worked encodings of section 6 of `30_encoding.md`. -/

namespace Sys2Proof.Machine

/-- The word of a command decodes to it, for a word that is given as such. -/
theorem decode_of_encode {i : Instr} {w : CmdWord} (h : encode i = some w) : decode w = .ok i := by
  unfold encode at h
  split at h
  · next hwf =>
    cases h
    exact decode_encodeWord hwf
  · cases h

/-- Settles O38: each word of the table is what the encoder gives for its command. -/
theorem workedEncodingsDecode : Obligations.WorkedEncodingsDecode :=
  ⟨decode_of_encode rfl, decode_of_encode rfl, decode_of_encode rfl, decode_of_encode rfl, decode_of_encode rfl,
    decode_of_encode rfl, decode_of_encode rfl, decode_of_encode rfl, decode_of_encode rfl, decode_of_encode rfl⟩

end Sys2Proof.Machine
end
